-- ==== Sys2Proof/Word.lean ====
section
/-! DEFINITION. The two word types every register and byte of MWG-HC is made of (00_scope R10). -/

namespace Sys2Proof

/-- A register value or a bus word: an unsigned 32-bit number (R10). -/
abbrev Word := BitVec 32

/-- One byte of the scratchpad or of a byte string (R11). -/
abbrev Byte := BitVec 8

end Sys2Proof
end

