-- ==== Sys2Proof/Syntax.lean ====
section
/-! DEFINITION. The commands of MWG-HC (30_encoding R72), one constructor for each row of spec/opcode_table.json. A command word carries
no operand (R71), so no constructor has an argument. -/

namespace Sys2Proof

inductive Instr where
  /-- NOP (R126). -/
  | nop
  /-- SHA256.INIT: start a stream (R100). -/
  | shaInit
  /-- SHA256.UPDATE: absorb a region (R101). -/
  | shaUpdate
  /-- SHA256.FINAL: write the digest of the stream (R102). -/
  | shaFinal
  /-- SHA256: digest of a region in one command (R103). -/
  | sha256
  /-- CKSUM.APPEND: append the checksum byte (R104). -/
  | cksumAppend
  /-- PACK: repack bytes into index groups (R82). -/
  | pack
  /-- PBKDF2: derive a key, the salt region used as it is (R118, M = 0). -/
  | pbkdf2
  /-- PBKDF2.M: derive a key, the salt prefixed with "mnemonic" (R118, R120, M = 1). -/
  | pbkdf2M
  deriving DecidableEq, Repr

end Sys2Proof
end

