-- ==== Sys2Proof/WellFormed.lean ====
section
/-! DEFINITION. Well-formedness. The fields of a command word (30_encoding R70) and the three checks that make a word legal (R73, R75);
an instruction carries no operand, so every constructor stands for a legal word. -/

namespace Sys2Proof

/-- The three fields of a command word (R70). -/
structure CmdFields where
  /-- OP, bits 7:0. -/
  op : BitVec 8
  /-- M, bit 8: the mnemonic-salt flag. -/
  m : Bool
  /-- RSV, bits 31:9. -/
  rsv : BitVec 23
  deriving DecidableEq, Repr

/-- OP is one of the eight opcodes 0x00 to 0x07 (R72, R73). -/
def CmdFields.opDefined (f : CmdFields) : Bool := decide (f.op.toNat ≤ 7)

/-- The reserved field is 0 (R70). -/
def CmdFields.rsvZero (f : CmdFields) : Bool := f.rsv == 0

/-- M is set only with the opcode of PBKDF2 (R70). -/
def CmdFields.mAllowed (f : CmdFields) : Bool := !f.m || f.op == 7

/-- The word is legal (R73). -/
def CmdFields.wellFormed (f : CmdFields) : Bool := f.opDefined && f.rsvZero && f.mAllowed

/-- OP, M and RSV of each command, the rows of R72. -/
def Instr.fields : Instr → CmdFields
  | .nop => ⟨0x00, false, 0⟩
  | .shaInit => ⟨0x01, false, 0⟩
  | .shaUpdate => ⟨0x02, false, 0⟩
  | .shaFinal => ⟨0x03, false, 0⟩
  | .sha256 => ⟨0x04, false, 0⟩
  | .cksumAppend => ⟨0x05, false, 0⟩
  | .pack => ⟨0x06, false, 0⟩
  | .pbkdf2 => ⟨0x07, false, 0⟩
  | .pbkdf2M => ⟨0x07, true, 0⟩

/-- An instruction is well formed when its fields pass the three checks of R73. -/
def Instr.wellFormed (i : Instr) : Bool := i.fields.wellFormed

end Sys2Proof
end

