-- ==== Sys2Proof/Decode.lean ====
section
/-! DEFINITION. Decoding and encoding of the command word (30_encoding R70 to R74). The decoder is total on 32-bit words and rejects an
illegal word by the name of the field that makes it so; the block reports all three as ILLEGAL (R73). -/

namespace Sys2Proof

/-- Why a word is no command (R73). -/
inductive DecodeError where
  /-- RSV, bits 31:9, is not 0. -/
  | reservedBits
  /-- OP is 0x08 to 0xFF. -/
  | unknownOpcode
  /-- M = 1 with an opcode other than 0x07. -/
  | mnemonicFlag
  deriving DecidableEq, Repr

/-- The fields of a word (R70). -/
def fieldsOf (w : Word) : CmdFields :=
  { op := w.extractLsb' 0 8, m := w.getLsbD 8, rsv := w.extractLsb' 9 23 }

/-- The command a legal opcode and M flag name, without the reserved field (R72). -/
def decodeOp (op : Nat) (m : Bool) : Except DecodeError Instr :=
  match op, m with
  | 0, false => .ok .nop
  | 1, false => .ok .shaInit
  | 2, false => .ok .shaUpdate
  | 3, false => .ok .shaFinal
  | 4, false => .ok .sha256
  | 5, false => .ok .cksumAppend
  | 6, false => .ok .pack
  | 7, false => .ok .pbkdf2
  | 7, true => .ok .pbkdf2M
  | op, _ => .error (if op ≤ 7 then .mnemonicFlag else .unknownOpcode)

/-- Read a command word (R70, R72, R73). -/
def decode (w : Word) : Except DecodeError Instr :=
  if (fieldsOf w).rsv = 0 then decodeOp (fieldsOf w).op.toNat (fieldsOf w).m else .error .reservedBits

/-- The host's entry: the instruction read from `nbits` bits of value `w`, bit 0 the least significant of the command word. A value that
does not fit its bits, or more bits than a command word has, is no instruction. -/
def decodeTableWord (nbits w : Nat) : Option Instr :=
  if nbits ≤ 32 ∧ w < 2 ^ nbits then (decode (BitVec.ofNat 32 w)).toOption else none

/-- Lay the fields out as a word: RSV in bits 31:9, M in bit 8, OP in bits 7:0 (R70). -/
def wordOf (f : CmdFields) : Word := f.rsv ++ (BitVec.ofBool f.m ++ f.op : BitVec 9)

/-- The word of a command (R72). -/
def encode (i : Instr) : Word := wordOf i.fields

end Sys2Proof
end

