-- ==== Sys2Proof/Machine/Bytes.lean ====
section
/-! DEFINITION. Byte strings and their conversions to numbers (00_scope R11, R12). A byte string is a list of bytes, its byte 0 first. -/

namespace Sys2Proof.Machine

open Sys2Proof

/-- LE_n(v): the n-byte little-endian encoding of v (R12). -/
def le : Nat → Nat → List Byte
  | 0, _ => []
  | n + 1, v => BitVec.ofNat 8 v :: le n (v / 256)

/-- LE_n^-1(s) (R12). -/
def ofLe : List Byte → Nat
  | [] => 0
  | b :: r => b.toNat + 256 * ofLe r

/-- BE_n(v): the n-byte big-endian encoding of v (R12). -/
def be (n v : Nat) : List Byte := (le n v).reverse

/-- BE_n^-1(s) (R12). -/
def ofBe (s : List Byte) : Nat := ofLe s.reverse

/-- 0x00^k (R11). -/
def zeros (k : Nat) : List Byte := List.replicate k 0

/-- Exclusive-or of two byte strings of equal length, byte by byte (R12). -/
def xorBytes (s t : List Byte) : List Byte := List.zipWith (· ^^^ ·) s t

/-- ROTR_w(x, n), for 0 < n < w (R12). -/
def rotr {w : Nat} (x : BitVec w) (n : Nat) : BitVec w := (x >>> n) ||| (x <<< (w - n))

end Sys2Proof.Machine
end

