-- ==== Sys2Proof/Config.lean ====
section
/-! DEFINITION. The block's parameters (R8), its constants (R26), and the values the spec leaves open. An `opaque` constant has no body:
no proof can see its value, so a theorem that mentions one holds whatever it is. -/

namespace Sys2Proof

/-- SPAD_SIZE, the number of scratchpad bytes (R8, R53). -/
def Config.spadSize : Nat := 2048

/-- The largest number of message bytes of one SHA-256 stream, 2^61 - 1 (R8, R97). -/
def Config.shaMaxLen : Nat := 2 ^ 61 - 1

/-- ID, the ASCII bytes "MWG1" as a big-endian word (R26). -/
def Config.idWord : Word := 0x4D574731

/-- VERSION: edition 7 of the source document, block revision 0 (R26). -/
def Config.versionWord : Word := 0x00070000

/-- The free value of one byte: what an unwritten scratchpad byte reads as, and what a command writes that read such a byte (R57).
The index is a fresh one at every use (log 2). -/
opaque Config.freeByte : Nat → Byte

/-- The free value of one word: a result register read while BUSY = 1 (R155), and a hash word computed from an unwritten byte
(R57, U4). The index is a fresh one at every use (log 2). -/
opaque Config.freeWord : Nat → Word

/-- How many host moves fall between an acceptance and its completion step: free and finite (R16, R158, U17). The index is a fresh one
at every acceptance (log 1). -/
opaque Config.engineDelay : Nat → Nat

/-- The number of the 4096-byte page of host addresses in which the platform puts the window (R51, OPEN parameter HC_BASE; log 14). -/
opaque Config.windowPage : Nat

/-- HC_BASE, a multiple of 4096 (R51). -/
def Config.hcBase : Nat := 4096 * Config.windowPage

end Sys2Proof
end

