-- ==== Sys2Proof/Machine/State.lean ====
section
/-! DEFINITION. The state of MWG-HC (10_state R48) as plain data, with the host that drives it (00_scope R16) and the machine right after
reset (R147). -/

namespace Sys2Proof.Machine

open Sys2Proof

/-- The error codes of R131. The codes 8 to 15 are never produced, so they have no constructor. -/
inductive ErrCode where
  | noError
  | illegal
  | sequence
  | config
  | range
  | overlap
  | remainder
  | length
  deriving DecidableEq, Repr

/-- CTRL (R27). The reserved bits are not stored: they read 0 and ignore writes. -/
structure Ctrl where
  /-- PACK_TRUNC, bit 0: drop (true) or reject (false) a remainder. -/
  packTrunc : Bool
  /-- IRQ_EN, bit 1: enable of the interrupt output. -/
  irqEn : Bool
  /-- GW, bits 12:8: the group width of PACK; every value is stored. -/
  gw : BitVec 5
  deriving DecidableEq, Repr

/-- The STATUS bits that are stored here (R29). BUSY is the pending latch (log 5), SHA_ACTIVE is `sha.active` (R48). -/
structure Status where
  done : Bool
  err : Bool
  cmdOvr : Bool
  busErr : Bool
  deriving DecidableEq, Repr

/-- The operand registers ARG_* (R33 to R39). -/
structure Args where
  src : Word
  slen : Word
  src2 : Word
  s2len : Word
  dst : Word
  dlen : Word
  iter : Word
  deriving DecidableEq, Repr

/-- The latched operands L of an accepted command (R76): the ARG registers, GW and PACK_TRUNC. -/
structure Latched extends Args where
  gw : BitVec 5
  trunc : Bool
  deriving DecidableEq, Repr

/-- Eight words of width `w`: a chaining value H[0..7], or the working variables a to h of a compression (R96, R113). -/
structure Hash (w : Nat) where
  h0 : BitVec w
  h1 : BitVec w
  h2 : BitVec w
  h3 : BitVec w
  h4 : BitVec w
  h5 : BitVec w
  h6 : BitVec w
  h7 : BitVec w
  deriving DecidableEq, Repr

/-- The SHA-256 engine (R45). -/
structure ShaState where
  /-- A stream is open; visible as STATUS.SHA_ACTIVE. -/
  active : Bool
  /-- The chaining value, visible as SHA_H0..SHA_H7. -/
  h : Hash 32
  /-- Message bytes since SHA256.INIT, kept below 2^61. -/
  len : BitVec 64
  /-- The message bytes not yet compressed. -/
  buf : List Byte
  deriving DecidableEq, Repr

/-- The pending-command latch (R46): the accepted command (its OP and M) and its latched operands. -/
structure Pending where
  instr : Instr
  l : Latched
  deriving DecidableEq, Repr

/-- The scratchpad: the written bytes, by address. An address that is not listed has not been written since reset (R48, R149). -/
abbrev Memory := List Host.Cell

/-- The answer to one bus transaction (R50). A write has no data; its field is 0 (log 6). -/
structure Response where
  data : Word
  err : Bool
  deriving DecidableEq, Repr

/-- One entry of the run's error log, which the observer keeps (R163). -/
inductive LogEvent where
  /-- A transaction returned err = 1. -/
  | busError
  /-- An acceptance raised an error. -/
  | rejected (code : ErrCode)
  /-- A CMD write was dropped. -/
  | dropped
  deriving DecidableEq, Repr

/-- One move of the host or of the reset pin (R50, R80, R146). A host variable is a number (log 6). -/
inductive HostOp where
  /-- `Write(off, data, strb)` (R50). -/
  | write (off : BitVec 12) (data : Word) (strb : BitVec 4)
  /-- `name <- Read(off).data` (R80). -/
  | read (off : BitVec 12) (var : Nat)
  /-- One turn of `poll`: read STATUS into variable 0 and stay until BUSY reads 0 (R80). -/
  | poll
  /-- `expect name, value`: stop the program if the variable differs (R80). -/
  | expect (var : Nat) (value : Word)
  /-- Drive `rst_n` to a level (R146, R147). -/
  | resetPin (level : Bool)
  deriving DecidableEq, Repr

/-- The host and the observer of its run: no part of the block (R16, R163; log 6). -/
structure HostState where
  /-- The moves still to come, oldest first. -/
  script : List HostOp
  /-- The host variables that have a value, by number. -/
  vars : List (Nat × Word)
  /-- An `expect` has failed. -/
  failed : Bool
  /-- The answer to the last transaction. -/
  resp : Response
  /-- The run's error log, oldest first (R163). -/
  log : List LogEvent
  deriving DecidableEq, Repr

/-- Why the machine stops with a fault. -/
inductive Fault where
  /-- Raised by the completion step when the latched operands fail a check of R79 that acceptance makes. No state that keeps the
  invariant `State.Inv` holds such operands (R134), so no run raises it. Safe: the model stops where the spec gives no effect (log 11). -/
  | uncheckedOperands
  deriving DecidableEq, Repr

/-- Why the machine refuses to step. -/
inductive Refusal where
  /-- Raised by no arm: every command has its meaning. The constructor is part of the host's interface. Safe. -/
  | notModelled (mnemonic : String)
  /-- Raised by a bus transaction while `rst_n` = 0: its response is unspecified, and R150 has a model refuse it. Safe (log 9). -/
  | transactionInReset
  deriving DecidableEq, Repr

/-- The state of one MWG-HC instance (R48), its reset pin, its host, and the two fields of the model's own. -/
structure State where
  ctrl : Ctrl
  status : Status
  errcode : ErrCode
  args : Args
  /-- PACK_COUNT (R40). -/
  packCount : Word
  /-- CKSUM[7:0] (R41). -/
  cksum : Byte
  sha : ShaState
  /-- The accepted command, if there is one; STATUS.BUSY is 1 exactly when there is (R46). -/
  pending : Option Pending
  spad : Memory
  /-- The level of `rst_n`; false while reset is asserted (R146). -/
  rstN : Bool
  host : HostState
  /-- The model's own: host moves left before the completion step (log 1). -/
  wait : Nat
  /-- The model's own: the index of the next free value (log 2). -/
  fresh : Nat
  deriving DecidableEq, Repr

/-- The machine right after reset (R147, R161): the values of R24, R27, R29 and R45, every scratchpad byte unwritten. The host holds no
program and no value, and the model's own two counters are 0 (log 1, 2, 6). -/
def State.reset : State where
  ctrl := { packTrunc := false, irqEn := false, gw := 11 }
  status := { done := false, err := false, cmdOvr := false, busErr := false }
  errcode := .noError
  args := { src := 0, slen := 0, src2 := 0, s2len := 0, dst := 0, dlen := 64, iter := 2048 }
  packCount := 0
  cksum := 0
  sha := { active := false, h := ⟨0, 0, 0, 0, 0, 0, 0, 0⟩, len := 0, buf := [] }
  pending := none
  spad := []
  rstN := true
  host := { script := [], vars := [], failed := false, resp := { data := 0, err := false }, log := [] }
  wait := 0
  fresh := 0

end Sys2Proof.Machine
end

