-- ==== Sys2Proof/Machine/Flags.lean ====
section
/-! DEFINITION. STATUS, CTRL, ERRCODE and the interrupt output: how they are read, and every way they change (10_state R22, R27 to R32;
60_exceptions R130, R135). -/

namespace Sys2Proof.Machine

open Sys2Proof

/-- The 4-bit code of an error (R131). -/
def ErrCode.code : ErrCode → BitVec 4
  | .noError => 0
  | .illegal => 1
  | .sequence => 2
  | .config => 3
  | .range => 4
  | .overlap => 5
  | .remainder => 6
  | .length => 7

/-- STATUS.BUSY: a command is pending (R29, R46). -/
def State.busy (s : State) : Bool := s.pending.isSome

/-- STATUS as read (R29): bits 31:6 read 0. SHA_ACTIVE is an argument, since a read while BUSY = 1 gives it any value (R155). -/
def State.statusWord (s : State) (shaActive : Bool) : Word :=
  (0#26 ++ BitVec.ofBool shaActive ++ BitVec.ofBool s.status.busErr ++ BitVec.ofBool s.status.cmdOvr ++ BitVec.ofBool s.status.err
    ++ BitVec.ofBool s.status.done ++ BitVec.ofBool s.busy : BitVec (26 + 1 + 1 + 1 + 1 + 1 + 1))

/-- A STATUS write: each W1C bit whose data bit is 1 is cleared, bits 0, 5 and 31:6 are ignored (R30). -/
def Status.w1c (st : Status) (d : Word) : Status where
  done := st.done && !d.getLsbD 1
  err := st.err && !d.getLsbD 2
  cmdOvr := st.cmdOvr && !d.getLsbD 3
  busErr := st.busErr && !d.getLsbD 4

/-- CTRL as read: the reserved bits read 0 (R27). -/
def Ctrl.word (c : Ctrl) : Word :=
  (0#19 ++ c.gw ++ 0#6 ++ BitVec.ofBool c.irqEn ++ BitVec.ofBool c.packTrunc : BitVec (19 + 5 + 6 + 1 + 1))

/-- CTRL as written: every value of GW is stored, the reserved bits are ignored (R27). -/
def Ctrl.ofWord (d : Word) : Ctrl where
  packTrunc := d.getLsbD 0
  irqEn := d.getLsbD 1
  gw := d.extractLsb' 8 5

/-- ERRCODE as read: bits 31:4 read 0 (R32). -/
def ErrCode.word (e : ErrCode) : Word := e.code.setWidth 32

/-- The interrupt output (R135). -/
def State.irq (s : State) : Bool :=
  s.ctrl.irqEn && (s.status.done || s.status.err || s.status.cmdOvr || s.status.busErr)

/-- The start of every acceptance: DONE, ERR and ERRCODE are cleared (R75). -/
def State.accepting (s : State) : State :=
  { s with status := { s.status with done := false, err := false }, errcode := .noError }

/-- `raise Error(code)` (R130): ERR is set and ERRCODE holds the code; the observer logs the rejection (R163). -/
def State.raiseError (s : State) (code : ErrCode) : State :=
  { s with
    status := { s.status with err := true }
    errcode := code
    host := { s.host with log := s.host.log ++ [.rejected code] } }

/-- A CMD write while BUSY = 1 is dropped: CMD_OVR is set (R77); the observer logs it (R163). -/
def State.dropCommand (s : State) : State :=
  { s with
    status := { s.status with cmdOvr := true }
    host := { s.host with log := s.host.log ++ [.dropped] } }

/-- A bus error response: err = 1, data 0, and BUS_ERR is set (R58); the observer logs it (R163). -/
def State.raiseBusError (s : State) : State :=
  { s with
    status := { s.status with busErr := true }
    host := { s.host with resp := { data := 0, err := true }, log := s.host.log ++ [.busError] } }

/-- The end of a completion step: BUSY is cleared with the pending latch, DONE is set (R78). -/
def State.completed (s : State) : State :=
  { s with status := { s.status with done := true }, pending := none }

end Sys2Proof.Machine
end

