-- ==== Sys2Proof/Machine/Ops.lean ====
section
/-! DEFINITION. The named operations: cells of an address-ordered list, reading and writing the scratchpad as a byte string (20_memory R55),
the free values of a read of unwritten bytes (R57), reset (R147), and a command's two steps, acceptance (R75) and completion (R78), with the
one place where an error is taken (R130). -/

namespace Sys2Proof.Machine

open Sys2Proof

/-! ### Cells -/

/-- The value listed at a key. -/
def cellGet {α : Type} : List (Nat × α) → Nat → Option α
  | [], _ => none
  | (k, v) :: rest, a => if a = k then some v else cellGet rest a

/-- The list with one key's value replaced or put in its place in the order. -/
def cellSet {α : Type} : List (Nat × α) → Nat → α → List (Nat × α)
  | [], a, x => [(a, x)]
  | (k, v) :: rest, a, x =>
    if a < k then (a, x) :: (k, v) :: rest else if a = k then (a, x) :: rest else (k, v) :: cellSet rest a x

/-- Keys strictly rising: the one canonical form of a list of cells. -/
abbrev cellsSorted {α : Type} (m : List (Nat × α)) : Prop := m.Pairwise (fun x y => x.1 < y.1)

/-! ### The scratchpad -/

/-- A scratchpad in canonical form: addresses strictly rising, all below SPAD_SIZE (R53). An unlisted address is unwritten and has no
byte, so no cell can equal what an unlisted address reads as. -/
abbrev Memory.wf (m : Memory) : Prop := cellsSorted m ∧ ∀ c ∈ m, c.1 < Config.spadSize

/-- The byte at an address, or none where nothing has been written since reset (R48, R57). -/
def Memory.byte (m : Memory) (a : Nat) : Option Byte := cellGet m a

/-- `MemWrite(a, |s|, s)`: SPAD[a+i] <- s[i] (R55). -/
def Memory.writeBytes : Memory → Nat → List Byte → Memory
  | m, _, [] => m
  | m, a, b :: rest => Memory.writeBytes (cellSet m a b) (a + 1) rest

/-- Every byte of the region (a, n) has been written since reset. -/
def Memory.written (m : Memory) (a n : Nat) : Bool := (List.range n).all fun i => (m.byte (a + i)).isSome

/-- `MemRead(a, n)` (R55): byte i is SPAD[a+i], or the free value of index `fresh + i` where that byte is unwritten (R57). -/
def State.memRead (s : State) (a n : Nat) : List Byte :=
  (List.range n).map fun i => (s.spad.byte (a + i)).getD (Config.freeByte (s.fresh + i))

/-! ### Free results (R57; log 4) -/

/-- n bytes, each any value. -/
def State.freeBytes (s : State) (n : Nat) : List Byte := (List.range n).map fun i => Config.freeByte (s.fresh + i)

/-- Eight hash words, each any value. -/
def State.freeHash (s : State) : Hash 32 :=
  ⟨Config.freeWord s.fresh, Config.freeWord (s.fresh + 1), Config.freeWord (s.fresh + 2), Config.freeWord (s.fresh + 3),
    Config.freeWord (s.fresh + 4), Config.freeWord (s.fresh + 5), Config.freeWord (s.fresh + 6), Config.freeWord (s.fresh + 7)⟩

/-- The next unused index of a free value after a command that read n source bytes and, if one of them was unwritten, used at most k more. -/
def State.freshAfter (s : State) (known : Bool) (k : Nat) : Nat := if known then s.fresh else s.fresh + k

/-! ### Reset -/

/-- Every piece of block state takes its reset value, a pending command is abandoned and every scratchpad byte is unwritten (R147 to R149).
The host, the level of the pin and the supply of free values are not the block's. -/
def State.resetBlock (s : State) : State :=
  { State.reset with rstN := s.rstN, host := s.host, fresh := s.fresh }

/-! ### The two steps of a command -/

/-- The acceptance checks of one opcode, conditions with their codes in the order of R79. -/
abbrev CheckRow := Latched → ShaState → List (Bool × ErrCode)

/-- The code of the first condition that holds decides the error (R79, R133). -/
def firstError : List (Bool × ErrCode) → Option ErrCode
  | [] => none
  | (holds, code) :: rest => if holds then some code else firstError rest

/-- `latch()` (R76). -/
def State.latch (s : State) : Latched := { toArgs := s.args, gw := s.ctrl.gw, trunc := s.ctrl.packTrunc }

/-- `pending <- (OP, M, L); STATUS.BUSY <- 1` (R75), with the number of host moves until the completion step drawn (log 1). -/
def State.start (s : State) (i : Instr) (l : Latched) : State :=
  { s with pending := some ⟨i, l⟩, wait := Config.engineDelay s.fresh, fresh := s.fresh + 1 }

/-- A CMD write of the command's word (R75): dropped while BUSY = 1 (R77), else accepted or rejected. -/
def State.issue (s : State) (i : Instr) (row : CheckRow) : State :=
  if s.busy then s.dropCommand
  else match firstError (row s.latch s.sha) with
    | some code => s.accepting.raiseError code
    | none => s.accepting.start i s.latch

/-- A CMD write of an illegal word (R73, R75): dropped while BUSY = 1, else rejected with ILLEGAL. -/
def State.issueIllegal (s : State) : State := if s.busy then s.dropCommand else s.accepting.raiseError .illegal

/-- The completion step (R78): the command's effect on the latched operands, then BUSY cleared and DONE set. Operands that acceptance
would have rejected have no effect in the spec: a fault, which no run raises (log 11). -/
def State.complete (s : State) (l : Latched) (row : CheckRow) (effect : Latched → State → State) :
    Host.Outcome State Fault Refusal :=
  match firstError (row l s.sha) with
  | some _ => .fault .uncheckedOperands
  | none => .next (effect l s).completed

/-- One step of a command (log 10). With a command pending and no host move left before its completion, it is the engine's turn: the
completion step on the latched operands (the step gives it the pending command). Else it is the CMD write that issues the command. -/
def command (i : Instr) (row : CheckRow) (effect : Latched → State → State) (s : State) : Host.Outcome State Fault Refusal :=
  match s.pending with
  | some p => if s.wait = 0 then s.complete p.l row effect else .next (s.issue i row)
  | none => .next (s.issue i row)

end Sys2Proof.Machine
end

