-- ==== Sys2Proof/Machine/Operands.lean ====
section
/-! DEFINITION. Operand forms: regions of the scratchpad (00_scope R14, R15), the acceptance checks of every opcode (30_encoding R79), and
the registers that the offsets of the window name (10_state R24). -/

namespace Sys2Proof.Machine

open Sys2Proof

/-! ### Regions -/

/-- Region (a, n) is in range: a + n <= SPAD_SIZE on integers, without wrap-around (R14, R15). -/
def inRange (a n : Nat) : Bool := decide (a + n ≤ Config.spadSize)

/-- Regions (a, m) and (b, n) overlap (R15). -/
def overlaps (a m b n : Nat) : Bool := decide (0 < m ∧ 0 < n ∧ a < b + n ∧ b < a + m)

/-! ### The acceptance checks (R79), one row an opcode -/

/-- n of R79: the number of complete groups of GW bits in the source region (R85). -/
def groupCount (l : Latched) : Nat := 8 * l.slen.toNat / l.gw.toNat

def rowNop : CheckRow := fun _ _ => []

def rowShaInit : CheckRow := fun _ _ => []

def rowShaUpdate : CheckRow := fun l sha =>
  [(!sha.active, .sequence),
   (!inRange l.src.toNat l.slen.toNat, .range),
   (decide (sha.len.toNat + l.slen.toNat > Config.shaMaxLen), .length)]

def rowShaFinal : CheckRow := fun l sha =>
  [(!sha.active, .sequence),
   (!inRange l.dst.toNat 32, .range)]

def rowSha256 : CheckRow := fun l _ =>
  [(!inRange l.src.toNat l.slen.toNat, .range),
   (!inRange l.dst.toNat 32, .range),
   (overlaps l.src.toNat l.slen.toNat l.dst.toNat 32, .overlap)]

def rowCksumAppend : CheckRow := fun l _ =>
  [(!inRange l.src.toNat (l.slen.toNat + 1), .range)]

def rowPack : CheckRow := fun l _ =>
  [(!decide (1 ≤ l.gw.toNat ∧ l.gw.toNat ≤ 16), .config),
   (!inRange l.src.toNat l.slen.toNat, .range),
   (decide (8 * l.slen.toNat % l.gw.toNat ≠ 0) && !l.trunc, .remainder),
   (!inRange l.dst.toNat (2 * groupCount l), .range),
   (overlaps l.src.toNat l.slen.toNat l.dst.toNat (2 * groupCount l), .overlap)]

def rowPbkdf2 : CheckRow := fun l _ =>
  [(l.iter == 0 || l.dlen == 0, .config),
   (!inRange l.src.toNat l.slen.toNat, .range),
   (!inRange l.src2.toNat l.s2len.toNat, .range),
   (!inRange l.dst.toNat l.dlen.toNat, .range),
   (overlaps l.src.toNat l.slen.toNat l.dst.toNat l.dlen.toNat, .overlap),
   (overlaps l.src2.toNat l.s2len.toNat l.dst.toNat l.dlen.toNat, .overlap)]

/-- The row of each command; PBKDF2 and PBKDF2.M share theirs (R79). -/
def checkRow : Instr → CheckRow
  | .nop => rowNop
  | .shaInit => rowShaInit
  | .shaUpdate => rowShaUpdate
  | .shaFinal => rowShaFinal
  | .sha256 => rowSha256
  | .cksumAppend => rowCksumAppend
  | .pack => rowPack
  | .pbkdf2 => rowPbkdf2
  | .pbkdf2M => rowPbkdf2

/-! ### The register window -/

/-- The registers of R24. -/
inductive Reg where
  | id
  | version
  | ctrl
  | status
  | cmd
  | errcode
  | argSrc
  | argSlen
  | argSrc2
  | argS2len
  | argDst
  | argDlen
  | argIter
  | packCount
  | cksum
  | shaLenLo
  | shaLenHi
  | shaH (i : Nat)
  | reserved
  deriving DecidableEq, Repr

/-- The register at an aligned offset below 0x800 (R24). -/
def regAt (off : Nat) : Reg :=
  match off with
  | 0x000 => .id
  | 0x004 => .version
  | 0x008 => .ctrl
  | 0x00C => .status
  | 0x010 => .cmd
  | 0x014 => .errcode
  | 0x018 => .argSrc
  | 0x01C => .argSlen
  | 0x020 => .argSrc2
  | 0x024 => .argS2len
  | 0x028 => .argDst
  | 0x02C => .argDlen
  | 0x030 => .argIter
  | 0x034 => .packCount
  | 0x038 => .cksum
  | 0x03C => .shaLenLo
  | 0x040 => .shaLenHi
  | n => if 0x060 ≤ n ∧ n < 0x080 then .shaH ((n - 0x060) / 4) else .reserved

/-- Offsets 0x800 to 0xFFF are the scratchpad (R24, R53). -/
def isSpad (off : BitVec 12) : Bool := decide (0x800 ≤ off.toNat)

/-- The offset a host address has in the window, or none outside it (R51). -/
def windowOffset (addr : Nat) : Option (BitVec 12) :=
  if Config.hcBase ≤ addr ∧ addr ≤ Config.hcBase + 0xFFF then some (BitVec.ofNat 12 (addr - Config.hcBase)) else none

end Sys2Proof.Machine
end

