-- ==== Sys2Proof/Machine/BitPacker.lean ====
section
/-! DEFINITION. The bit-packer's command PACK (40_bitpack R82 to R91). -/

namespace Sys2Proof.Machine

open Sys2Proof

/-- bit(j) of the stream: bytes in order, each most significant bit first (R84). -/
def streamBit (s : List Byte) (j : Nat) : Nat := (s.getD (j / 8) 0).toNat >>> (7 - j % 8) &&& 1

/-- idx_k: stream bits k*GW to k*GW+GW-1 as a number, the first bit the most significant (R85). -/
def packIndex (s : List Byte) (gw k : Nat) : Nat :=
  ((List.range gw).map fun t => streamBit s (k * gw + t) <<< (gw - 1 - t)).sum

/-- The n indices of a source string (R85). -/
def packIndices (s : List Byte) (gw n : Nat) : List Nat := (List.range n).map (packIndex s gw)

/-- The output format: each index as LE_2, in order (R86). -/
def packBytes (indices : List Nat) : List Byte := indices.flatMap (le 2)

/-- The bytes PACK writes: the indices of the source, or any bytes when a source byte is unwritten (R85, R86; R57). -/
def State.packOutput (s : State) (l : Latched) : List Byte :=
  if s.spad.written l.src.toNat l.slen.toNat then
    packBytes (packIndices (s.memRead l.src.toNat l.slen.toNat) l.gw.toNat (groupCount l))
  else s.freeBytes (2 * groupCount l)

/-- PACK's completion effect (R85). -/
def effectPack (l : Latched) (s : State) : State :=
  { s with
    spad := s.spad.writeBytes l.dst.toNat (s.packOutput l)
    packCount := BitVec.ofNat 32 (groupCount l)
    fresh := s.freshAfter (s.spad.written l.src.toNat l.slen.toNat) (2 * groupCount l) }

/-- PACK (R82). -/
def execPack (s : State) : Host.Outcome State Fault Refusal := command .pack rowPack effectPack s

end Sys2Proof.Machine
end

