-- ==== Sys2Proof/Machine/Control.lean ====
section
/-! DEFINITION. The control command NOP (43_control R126). -/

namespace Sys2Proof.Machine

open Sys2Proof

/-- NOP's completion effect: nothing (R126). -/
def effectNop (_ : Latched) (s : State) : State := s

/-- NOP (R126). -/
def execNop (s : State) : Host.Outcome State Fault Refusal := command .nop rowNop effectNop s

end Sys2Proof.Machine
end

