-- ==== Sys2Proof/Machine/Sha2.lean ====
section
/-! DEFINITION. SHA-256 and SHA-512 as byte-string functions (41_sha256 R92 to R98; 42_pbkdf2 R109 to R114). The two share their shape: a block
of sixteen w-bit words, one round function, and padding with a bit count of two words; a `Sha2 w` holds what differs. -/

namespace Sys2Proof.Machine

open Sys2Proof

/-- What tells one member of the family from the other: the four sigma functions, the round constants and the initial hash value. -/
structure Sha2 (w : Nat) where
  bigSigma0 : BitVec w → BitVec w
  bigSigma1 : BitVec w → BitVec w
  smallSigma0 : BitVec w → BitVec w
  smallSigma1 : BitVec w → BitVec w
  k : List (BitVec w)
  iv : Hash w

/-- Ch(x, y, z) (R94; at width 64, R111). -/
def sha2Ch {w : Nat} (x y z : BitVec w) : BitVec w := (x &&& y) ^^^ (~~~x &&& z)

/-- Maj(x, y, z) (R94; at width 64, R111). -/
def sha2Maj {w : Nat} (x y z : BitVec w) : BitVec w := (x &&& y) ^^^ (x &&& z) ^^^ (y &&& z)

/-- The eight words in order. -/
def Hash.words {w : Nat} (v : Hash w) : List (BitVec w) := [v.h0, v.h1, v.h2, v.h3, v.h4, v.h5, v.h6, v.h7]

/-- Word by word addition modulo 2^w, the last line of R96 and R113. -/
def Hash.add {w : Nat} (x y : Hash w) : Hash w :=
  ⟨x.h0 + y.h0, x.h1 + y.h1, x.h2 + y.h2, x.h3 + y.h3, x.h4 + y.h4, x.h5 + y.h5, x.h6 + y.h6, x.h7 + y.h7⟩

/-- The first n words of a block, each of w/8 bytes taken big-endian (R95, R112). -/
def blockWords (w : Nat) : Nat → List Byte → List (BitVec w)
  | 0, _ => []
  | n + 1, m => BitVec.ofNat w (ofBe (m.take (w / 8))) :: blockWords w n (m.drop (w / 8))

/-- n more words of the message schedule (R95, R112). The list is W in reverse: entry j is W[t-1-j]. -/
def Sha2.extend {w : Nat} (f : Sha2 w) : Nat → List (BitVec w) → List (BitVec w)
  | 0, ws => ws
  | n + 1, ws =>
    f.extend n ((f.smallSigma1 (ws.getD 1 0) + ws.getD 6 0 + f.smallSigma0 (ws.getD 14 0) + ws.getD 15 0) :: ws)

/-- The message schedule W of one block, W[0] first: sixteen words of the block, then as many as there are rounds left (R95, R112). -/
def Sha2.schedule {w : Nat} (f : Sha2 w) (m : List Byte) : List (BitVec w) :=
  (f.extend (f.k.length - 16) (blockWords w 16 m).reverse).reverse

/-- One round on the working variables a to h, held as words 0 to 7, with K[t] and W[t] (R96, R113). -/
def Sha2.round {w : Nat} (f : Sha2 w) (v : Hash w) (kw : BitVec w × BitVec w) : Hash w :=
  let t1 := v.h7 + f.bigSigma1 v.h4 + sha2Ch v.h4 v.h5 v.h6 + kw.1 + kw.2
  let t2 := f.bigSigma0 v.h0 + sha2Maj v.h0 v.h1 v.h2
  ⟨t1 + t2, v.h0, v.h1, v.h2, v.h3 + t1, v.h4, v.h5, v.h6⟩

/-- The compression function (R96, R113). -/
def Sha2.compress {w : Nat} (f : Sha2 w) (h : Hash w) (m : List Byte) : Hash w :=
  h.add ((f.k.zip (f.schedule m)).foldl f.round h)

/-- The compression of the first n blocks of a byte string, in order; a block is 2w bytes (R98, R114). -/
def Sha2.absorb {w : Nat} (f : Sha2 w) : Nat → Hash w → List Byte → Hash w
  | 0, h, _ => h
  | n + 1, h, p => f.absorb n (f.compress h (p.take (2 * w))) (p.drop (2 * w))

/-- Padding of a message of l bytes: 0x80, zeros, and the bit count big-endian in w/4 bytes, up to a whole number of blocks. The number of
zeros is (2w - w/4 - 1 - l) mod 2w (R97: 55, R114: 111). -/
def sha2Pad (w l : Nat) : List Byte :=
  0x80 :: zeros ((4 * w - w / 4 - 1 - l % (2 * w)) % (2 * w)) ++ be (w / 4) (8 * l)

/-- The final hash words of a message (R98, R114). -/
def Sha2.final {w : Nat} (f : Sha2 w) (m : List Byte) : Hash w :=
  f.absorb ((m ++ sha2Pad w m.length).length / (2 * w)) f.iv (m ++ sha2Pad w m.length)

/-- The digest: the hash words big-endian, word 0 first (R98, R114). -/
def Hash.digest {w : Nat} (h : Hash w) : List Byte := h.words.flatMap fun x => be (w / 8) x.toNat

/-- The n words of one row of a constant table, written as one number with its first word the most significant. -/
def rowWords (w : Nat) : Nat → Nat → List (BitVec w)
  | 0, _ => []
  | n + 1, row => BitVec.ofNat w (row >>> (w * n)) :: rowWords w n row

/-! ### SHA-256 -/

/-- K, a row of the table of R92 in a line. -/
def k256 : List (BitVec 32) :=
  [ 0x428a2f98_71374491_b5c0fbcf_e9b5dba5_3956c25b_59f111f1_923f82a4_ab1c5ed5,
    0xd807aa98_12835b01_243185be_550c7dc3_72be5d74_80deb1fe_9bdc06a7_c19bf174,
    0xe49b69c1_efbe4786_0fc19dc6_240ca1cc_2de92c6f_4a7484aa_5cb0a9dc_76f988da,
    0x983e5152_a831c66d_b00327c8_bf597fc7_c6e00bf3_d5a79147_06ca6351_14292967,
    0x27b70a85_2e1b2138_4d2c6dfc_53380d13_650a7354_766a0abb_81c2c92e_92722c85,
    0xa2bfe8a1_a81a664b_c24b8b70_c76c51a3_d192e819_d6990624_f40e3585_106aa070,
    0x19a4c116_1e376c08_2748774c_34b0bcb5_391c0cb3_4ed8aa4a_5b9cca4f_682e6ff3,
    0x748f82ee_78a5636f_84c87814_8cc70208_90befffa_a4506ceb_bef9a3f7_c67178f2 ].flatMap (rowWords 32 8)

/-- IV256 (R93). -/
def iv256 : Hash 32 :=
  ⟨0x6a09e667, 0xbb67ae85, 0x3c6ef372, 0xa54ff53a, 0x510e527f, 0x9b05688c, 0x1f83d9ab, 0x5be0cd19⟩

/-- SHA-256 (R92 to R94). -/
def sha256Params : Sha2 32 where
  bigSigma0 x := rotr x 2 ^^^ rotr x 13 ^^^ rotr x 22
  bigSigma1 x := rotr x 6 ^^^ rotr x 11 ^^^ rotr x 25
  smallSigma0 x := rotr x 7 ^^^ rotr x 18 ^^^ (x >>> 3)
  smallSigma1 x := rotr x 17 ^^^ rotr x 19 ^^^ (x >>> 10)
  k := k256
  iv := iv256

/-- Compress256 over n blocks of 64 bytes (R96, R98). -/
def absorb256 (n : Nat) (h : Hash 32) (p : List Byte) : Hash 32 := sha256Params.absorb n h p

/-- Pad256(l) (R97). -/
def pad256 (l : Nat) : List Byte := sha2Pad 32 l

/-- Hfinal256(m) (R98). -/
def hashFinal256 (m : List Byte) : Hash 32 := sha256Params.final m

/-- SHA256(m), 32 bytes (R98). -/
def sha256Digest (m : List Byte) : List Byte := (hashFinal256 m).digest

/-! ### SHA-512 -/

/-- K512, a row of the table of R109 in a line. -/
def k512 : List (BitVec 64) :=
  [ 0x428a2f98d728ae22_7137449123ef65cd_b5c0fbcfec4d3b2f_e9b5dba58189dbbc,
    0x3956c25bf348b538_59f111f1b605d019_923f82a4af194f9b_ab1c5ed5da6d8118,
    0xd807aa98a3030242_12835b0145706fbe_243185be4ee4b28c_550c7dc3d5ffb4e2,
    0x72be5d74f27b896f_80deb1fe3b1696b1_9bdc06a725c71235_c19bf174cf692694,
    0xe49b69c19ef14ad2_efbe4786384f25e3_0fc19dc68b8cd5b5_240ca1cc77ac9c65,
    0x2de92c6f592b0275_4a7484aa6ea6e483_5cb0a9dcbd41fbd4_76f988da831153b5,
    0x983e5152ee66dfab_a831c66d2db43210_b00327c898fb213f_bf597fc7beef0ee4,
    0xc6e00bf33da88fc2_d5a79147930aa725_06ca6351e003826f_142929670a0e6e70,
    0x27b70a8546d22ffc_2e1b21385c26c926_4d2c6dfc5ac42aed_53380d139d95b3df,
    0x650a73548baf63de_766a0abb3c77b2a8_81c2c92e47edaee6_92722c851482353b,
    0xa2bfe8a14cf10364_a81a664bbc423001_c24b8b70d0f89791_c76c51a30654be30,
    0xd192e819d6ef5218_d69906245565a910_f40e35855771202a_106aa07032bbd1b8,
    0x19a4c116b8d2d0c8_1e376c085141ab53_2748774cdf8eeb99_34b0bcb5e19b48a8,
    0x391c0cb3c5c95a63_4ed8aa4ae3418acb_5b9cca4f7763e373_682e6ff3d6b2b8a3,
    0x748f82ee5defb2fc_78a5636f43172f60_84c87814a1f0ab72_8cc702081a6439ec,
    0x90befffa23631e28_a4506cebde82bde9_bef9a3f7b2c67915_c67178f2e372532b,
    0xca273eceea26619c_d186b8c721c0c207_eada7dd6cde0eb1e_f57d4f7fee6ed178,
    0x06f067aa72176fba_0a637dc5a2c898a6_113f9804bef90dae_1b710b35131c471b,
    0x28db77f523047d84_32caab7b40c72493_3c9ebe0a15c9bebc_431d67c49c100d4c,
    0x4cc5d4becb3e42b6_597f299cfc657e2a_5fcb6fab3ad6faec_6c44198c4a475817 ].flatMap (rowWords 64 4)

/-- IV512 (R110). -/
def iv512 : Hash 64 :=
  ⟨0x6a09e667f3bcc908, 0xbb67ae8584caa73b, 0x3c6ef372fe94f82b, 0xa54ff53a5f1d36f1,
    0x510e527fade682d1, 0x9b05688c2b3e6c1f, 0x1f83d9abfb41bd6b, 0x5be0cd19137e2179⟩

/-- SHA-512 (R109 to R111). -/
def sha512Params : Sha2 64 where
  bigSigma0 x := rotr x 28 ^^^ rotr x 34 ^^^ rotr x 39
  bigSigma1 x := rotr x 14 ^^^ rotr x 18 ^^^ rotr x 41
  smallSigma0 x := rotr x 1 ^^^ rotr x 8 ^^^ (x >>> 7)
  smallSigma1 x := rotr x 19 ^^^ rotr x 61 ^^^ (x >>> 6)
  k := k512
  iv := iv512

/-- SHA512(m), 64 bytes (R114). -/
def sha512Digest (m : List Byte) : List Byte := (sha512Params.final m).digest

end Sys2Proof.Machine
end

