-- ==== Sys2Proof/Machine/HashCore.lean ====
section
/-! DEFINITION. The SHA-256 hash core's commands (41_sha256 R99 to R108). Where a source byte is unwritten, the hash words that would depend on
the source are free values instead (20_memory R57; log 4). -/

namespace Sys2Proof.Machine

open Sys2Proof

/-- The engine after a one-shot command or FINAL: the hash words are final, no stream is open, no byte is buffered (R102 to R104). -/
def shaClosed (h : Hash 32) (len : BitVec 64) : ShaState := { active := false, h := h, len := len, buf := [] }

/-- Hfinal256 of the region (a, n), or free hash words when one of its bytes is unwritten (R98, R57). -/
def State.hashRegion (s : State) (a n : Nat) : Hash 32 :=
  if s.spad.written a n then hashFinal256 (s.memRead a n) else s.freeHash

/-! ### SHA256.INIT (R100) -/

def effectShaInit (_ : Latched) (s : State) : State :=
  { s with sha := { active := true, h := iv256, len := 0, buf := [] } }

def execShaInit (s : State) : Host.Outcome State Fault Refusal := command .shaInit rowShaInit effectShaInit s

/-! ### SHA256.UPDATE (R101) -/

/-- The buffered bytes followed by the source region, t of R101. -/
def State.updateText (s : State) (l : Latched) : List Byte := s.sha.buf ++ s.memRead l.src.toNat l.slen.toNat

def effectShaUpdate (l : Latched) (s : State) : State :=
  let t := s.updateText l
  let blocks := t.length / 64
  let known := s.spad.written l.src.toNat l.slen.toNat
  { s with
    sha :=
      { s.sha with
        h := if known || blocks == 0 then absorb256 blocks s.sha.h t else s.freeHash
        len := s.sha.len + l.slen.setWidth 64
        buf := t.drop (64 * blocks) }
    fresh := s.freshAfter known (l.slen.toNat + 8) }

def execShaUpdate (s : State) : Host.Outcome State Fault Refusal := command .shaUpdate rowShaUpdate effectShaUpdate s

/-! ### SHA256.FINAL (R102) -/

/-- The chaining value after the padded rest of the stream (R102). -/
def ShaState.finalHash (sha : ShaState) : Hash 32 :=
  absorb256 ((sha.buf ++ pad256 sha.len.toNat).length / 64) sha.h (sha.buf ++ pad256 sha.len.toNat)

def effectShaFinal (l : Latched) (s : State) : State :=
  { s with
    sha := shaClosed s.sha.finalHash s.sha.len
    spad := s.spad.writeBytes l.dst.toNat s.sha.finalHash.digest }

def execShaFinal (s : State) : Host.Outcome State Fault Refusal := command .shaFinal rowShaFinal effectShaFinal s

/-! ### SHA256 (R103) -/

def effectSha256 (l : Latched) (s : State) : State :=
  let h := s.hashRegion l.src.toNat l.slen.toNat
  { s with
    sha := shaClosed h (l.slen.setWidth 64)
    spad := s.spad.writeBytes l.dst.toNat h.digest
    fresh := s.freshAfter (s.spad.written l.src.toNat l.slen.toNat) (l.slen.toNat + 8) }

def execSha256 (s : State) : Host.Outcome State Fault Refusal := command .sha256 rowSha256 effectSha256 s

/-! ### CKSUM.APPEND (R104) -/

/-- The checksum: byte 0 of the digest, H[0][31:24] (R98, R104). -/
def Hash.checksum (h : Hash 32) : Byte := h.h0.extractLsb' 24 8

def effectCksumAppend (l : Latched) (s : State) : State :=
  let h := s.hashRegion l.src.toNat l.slen.toNat
  { s with
    sha := shaClosed h (l.slen.setWidth 64)
    cksum := h.checksum
    spad := s.spad.writeBytes (l.src.toNat + l.slen.toNat) [h.checksum]
    fresh := s.freshAfter (s.spad.written l.src.toNat l.slen.toNat) (l.slen.toNat + 8) }

def execCksumAppend (s : State) : Host.Outcome State Fault Refusal := command .cksumAppend rowCksumAppend effectCksumAppend s

end Sys2Proof.Machine
end

