-- ==== Sys2Proof/Machine/Kdf.lean ====
section
/-! DEFINITION. HMAC-SHA512 and PBKDF2 as byte-string functions (42_pbkdf2 R115 to R117, R120). -/

namespace Sys2Proof.Machine

open Sys2Proof

/-- K0 of R115: the key, hashed first when it is longer than 128 bytes, with zero bytes up to 128. -/
def hmacKey (key : List Byte) : List Byte :=
  let k' := if key.length ≤ 128 then key else sha512Digest key
  k' ++ zeros (128 - k'.length)

/-- HMAC(K, m) with SHA-512, ipad 0x36 and opad 0x5c (R115). -/
def hmacSha512 (key m : List Byte) : List Byte :=
  sha512Digest (xorBytes (hmacKey key) (List.replicate 128 0x5c)
    ++ sha512Digest (xorBytes (hmacKey key) (List.replicate 128 0x36) ++ m))

/-- n further iterations of the block function from U_j and U_1 ⊕ ... ⊕ U_j (R116). -/
def pbkdf2Iterate (password : List Byte) : Nat → List Byte → List Byte → List Byte
  | 0, _, acc => acc
  | n + 1, u, acc => pbkdf2Iterate password n (hmacSha512 password u) (xorBytes acc (hmacSha512 password u))

/-- F(P, S, c, i), for c >= 1 (R116). -/
def pbkdf2Block (password salt : List Byte) (c i : Nat) : List Byte :=
  let u1 := hmacSha512 password (salt ++ be 4 i)
  pbkdf2Iterate password (c - 1) u1 u1

/-- PBKDF2(P, S, c, dkLen): the blocks 1 to ⌈dkLen / 64⌉, cut to dkLen bytes (R117). -/
def pbkdf2Derive (password salt : List Byte) (c dkLen : Nat) : List Byte :=
  ((List.range ((dkLen + 63) / 64)).flatMap fun i => pbkdf2Block password salt c (i + 1)).take dkLen

/-- The ASCII bytes of "mnemonic" (R11, R120). -/
def mnemonicPrefix : List Byte := [0x6D, 0x6E, 0x65, 0x6D, 0x6F, 0x6E, 0x69, 0x63]

end Sys2Proof.Machine
end

