-- ==== Sys2Proof/Machine/KeyStretcher.lean ====
section
/-! DEFINITION. The key-stretcher's commands PBKDF2 and PBKDF2.M (42_pbkdf2 R118 to R124). -/

namespace Sys2Proof.Machine

open Sys2Proof

/-- Every byte of the password region and of the salt region is written. -/
def State.kdfKnown (s : State) (l : Latched) : Bool :=
  s.spad.written l.src.toNat l.slen.toNat && s.spad.written l.src2.toNat l.s2len.toNat

/-- DK with a given prefix before the salt region, or free bytes when a source byte is unwritten (R120, R121; R57). -/
def State.derivedKey (s : State) (l : Latched) (saltPrefix : List Byte) : List Byte :=
  if s.kdfKnown l then
    pbkdf2Derive (s.memRead l.src.toNat l.slen.toNat) (saltPrefix ++ s.memRead l.src2.toNat l.s2len.toNat) l.iter.toNat l.dlen.toNat
  else s.freeBytes l.dlen.toNat

/-- The completion effect: the derived key is written to the destination region, nothing else changes (R121, R123). -/
def State.stretchKey (s : State) (l : Latched) (saltPrefix : List Byte) : State :=
  { s with
    spad := s.spad.writeBytes l.dst.toNat (s.derivedKey l saltPrefix)
    fresh := s.freshAfter (s.kdfKnown l) l.dlen.toNat }

/-- PBKDF2, M = 0: the salt is the salt region (R120, R121). -/
def effectPbkdf2 (l : Latched) (s : State) : State := s.stretchKey l []

/-- PBKDF2.M, M = 1: the salt is "mnemonic" and then the salt region (R120, R121). -/
def effectPbkdf2M (l : Latched) (s : State) : State := s.stretchKey l mnemonicPrefix

/-- PBKDF2 (R118). -/
def execPbkdf2 (s : State) : Host.Outcome State Fault Refusal := command .pbkdf2 rowPbkdf2 effectPbkdf2 s

/-- PBKDF2.M (R118). -/
def execPbkdf2M (s : State) : Host.Outcome State Fault Refusal := command .pbkdf2M rowPbkdf2 effectPbkdf2M s

end Sys2Proof.Machine
end

