-- ==== Sys2Proof/Machine/Dispatch.lean ====
section
/-! DEFINITION. The meaning of each command, one arm a constructor (30_encoding R72). -/

namespace Sys2Proof.Machine

open Sys2Proof

def exec (i : Instr) (s : State) : Host.Outcome State Fault Refusal :=
  match i with
  | .nop => Sys2Proof.Machine.execNop s
  | .shaInit => Sys2Proof.Machine.execShaInit s
  | .shaUpdate => Sys2Proof.Machine.execShaUpdate s
  | .shaFinal => Sys2Proof.Machine.execShaFinal s
  | .sha256 => Sys2Proof.Machine.execSha256 s
  | .cksumAppend => Sys2Proof.Machine.execCksumAppend s
  | .pack => Sys2Proof.Machine.execPack s
  | .pbkdf2 => Sys2Proof.Machine.execPbkdf2 s
  | .pbkdf2M => Sys2Proof.Machine.execPbkdf2M s

end Sys2Proof.Machine
end

