-- ==== Sys2Proof/Machine/Bus.lean ====
section
/-! DEFINITION. The bus target port: one transaction at a time (20_memory R50 to R59; 10_state R24 to R44). -/

namespace Sys2Proof.Machine

open Sys2Proof

/-- The answer of an admitted transaction: err = 0 (R50). -/
def State.respond (s : State) (data : Word) : State :=
  { s with host := { s.host with resp := { data := data, err := false } } }

/-- A transaction gets a bus error response: it is not an aligned access, or it is one to the scratchpad while BUSY = 1 (R52, R56, R58).
Partial strobes are the write's own condition. -/
def State.badAccess (s : State) (off : BitVec 12) : Bool := decide (off.toNat % 4 ≠ 0) || (isSpad off && s.busy)

/-! ### Reads -/

/-- A result register: its value, or any value while BUSY = 1 (R155; log 15). -/
def State.resultWord (s : State) (v : Word) : Word := if s.busy then Config.freeWord s.fresh else v

/-- STATUS as the host reads it: SHA_ACTIVE is any bit while BUSY = 1, the other bits are exact (R29, R155). -/
def State.readStatus (s : State) : Word :=
  s.statusWord (if s.busy then (Config.freeWord s.fresh).getLsbD 5 else s.sha.active)

/-- The value a read of a register returns (R24, R25, R26, R31, R44, R155). -/
def State.readReg (s : State) : Reg → Word
  | .id => Config.idWord
  | .version => Config.versionWord
  | .ctrl => s.ctrl.word
  | .status => s.readStatus
  | .cmd => 0
  | .errcode => s.errcode.word
  | .argSrc => s.args.src
  | .argSlen => s.args.slen
  | .argSrc2 => s.args.src2
  | .argS2len => s.args.s2len
  | .argDst => s.args.dst
  | .argDlen => s.args.dlen
  | .argIter => s.args.iter
  | .packCount => s.resultWord s.packCount
  | .cksum => s.resultWord (s.cksum.setWidth 32)
  | .shaLenLo => s.resultWord (s.sha.len.extractLsb' 0 32)
  | .shaLenHi => s.resultWord (s.sha.len.extractLsb' 32 32)
  | .shaH i => s.resultWord (s.sha.h.words.getD i 0)
  | .reserved => 0

/-- The scratchpad word at byte offset a: SPAD[a] in bits 7:0 up to SPAD[a+3] in bits 31:24 (R53); an unwritten byte is any value (R57). -/
def State.readSpad (s : State) (a : Nat) : Word := BitVec.ofNat 32 (ofLe (s.memRead a 4))

/-- The data of an admitted read (R24, R53). -/
def State.readData (s : State) (off : BitVec 12) : Word :=
  if isSpad off then s.readSpad (off.toNat - 0x800) else s.readReg (regAt off.toNat)

/-- `Read(off)` (R50). Four indices of free values are passed over, one for each byte lane (log 3). -/
def State.busRead (s : State) (off : BitVec 12) : State :=
  if s.badAccess off then s.raiseBusError
  else { s.respond (s.readData off) with fresh := s.fresh + 4 }

/-! ### Writes -/

/-- A CMD write issues its word: the command it decodes to, or an illegal word (R31, R73, R75). -/
def issueWord (w : Word) (s : State) : Host.Outcome State Fault Refusal :=
  match decode w with
  | .ok i => exec i s
  | .error _ => .next s.issueIllegal

/-- The effect of an admitted write to a register (R25, R27, R30, R31, R33 to R39, R44). -/
def State.writeReg (s : State) (d : Word) : Reg → Host.Outcome State Fault Refusal
  | .ctrl => .next { s with ctrl := Ctrl.ofWord d }
  | .status => .next { s with status := s.status.w1c d }
  | .cmd => issueWord d s
  | .argSrc => .next { s with args := { s.args with src := d } }
  | .argSlen => .next { s with args := { s.args with slen := d } }
  | .argSrc2 => .next { s with args := { s.args with src2 := d } }
  | .argS2len => .next { s with args := { s.args with s2len := d } }
  | .argDst => .next { s with args := { s.args with dst := d } }
  | .argDlen => .next { s with args := { s.args with dlen := d } }
  | .argIter => .next { s with args := { s.args with iter := d } }
  | .id => .next s
  | .version => .next s
  | .errcode => .next s
  | .packCount => .next s
  | .cksum => .next s
  | .shaLenLo => .next s
  | .shaLenHi => .next s
  | .shaH _ => .next s
  | .reserved => .next s

/-- The effect of an admitted scratchpad write: LE_4(d) at byte offset a (R53). -/
def State.writeSpad (s : State) (a : Nat) (d : Word) : State := { s with spad := s.spad.writeBytes a (le 4 d.toNat) }

/-- `Write(off, d, strb)` (R50): anything but an aligned write of all four lanes is a bus error (R52). -/
def State.busWrite (s : State) (off : BitVec 12) (d : Word) (strb : BitVec 4) : Host.Outcome State Fault Refusal :=
  if s.badAccess off || strb != 0b1111 then .next s.raiseBusError
  else if isSpad off then .next ((s.respond 0).writeSpad (off.toNat - 0x800) d)
  else (s.respond 0).writeReg d (regAt off.toNat)

end Sys2Proof.Machine
end

