-- ==== Sys2Proof/Machine/Agents.lean ====
section
/-! DEFINITION. The moves of the two agents (00_scope R16): the host takes the next line of its script (30_encoding R80), the engine completes
the pending command (R78). -/

namespace Sys2Proof.Machine

open Sys2Proof

/-- Carry a next state on; a fault or a refusal stays. -/
def thenNext (o : Host.Outcome State Fault Refusal) (f : State → State) : Host.Outcome State Fault Refusal :=
  match o with
  | .next s => .next (f s)
  | .fault r => .fault r
  | .refused r => .refused r

/-! ### The host -/

/-- The rest of the script after the line now taken. -/
def State.setScript (s : State) (script : List HostOp) : State := { s with host := { s.host with script := script } }

/-- A host variable takes a value. -/
def State.setVar (s : State) (var : Nat) (v : Word) : State :=
  { s with host := { s.host with vars := cellSet s.host.vars var v } }

/-- An `expect` fails: the host program stops (R80, R163). -/
def State.failExpect (s : State) : State := { s with host := { s.host with script := [], failed := true } }

/-- `rd OFF -> name`: the variable takes the data of the answer, 0 after a bus error (R50, R58, R80). -/
def State.readInto (s : State) (off : BitVec 12) (var : Nat) : State :=
  (s.busRead off).setVar var (s.busRead off).host.resp.data

/-- One turn of `poll`: read STATUS into variable 0; the line is left when bit 0 reads 0 (R80). The state has the line taken. -/
def State.pollStatus (s : State) : State :=
  let t := s.readInto 0x00C 0
  if t.host.resp.data.getLsbD 0 then t.setScript (.poll :: s.host.script) else t

/-- Drive `rst_n`: while it is 0 and at its release all block state has its reset value (R147); a level it already has at 1 changes
nothing (log 8). -/
def State.drivePin (s : State) (level : Bool) : State :=
  if level && s.rstN then s else { s.resetBlock with rstN := level }

/-- A transaction is possible only while `rst_n` = 1 (R150). -/
def State.onBus (s : State) (o : Host.Outcome State Fault Refusal) : Host.Outcome State Fault Refusal :=
  if s.rstN then o else .refused .transactionInReset

/-- One move of the host, taken from its script; the line is off the script in the state it acts on. -/
def State.hostOp (s : State) : HostOp → Host.Outcome State Fault Refusal
  | .write off d strb => s.onBus (s.busWrite off d strb)
  | .read off var => s.onBus (.next (s.readInto off var))
  | .poll => s.onBus (.next s.pollStatus)
  | .expect var v => .next (if cellGet s.host.vars var = some v then s else s.failExpect)
  | .resetPin level => .next (s.drivePin level)

/-- The host's turn: its next line, or nothing when the script is empty (log 7). -/
def hostMove (s : State) : Host.Outcome State Fault Refusal :=
  match s.host.script with
  | [] => .next s
  | op :: rest => (s.setScript rest).hostOp op

/-! ### The two agents -/

/-- One host move less until the completion step (log 1). -/
def State.tick (s : State) : State := { s with wait := s.wait - 1 }

/-- One step of the two agents: while a command is pending the host moves `wait` times and then the engine completes the command; else
the host moves (R16, R78, R158; log 1). -/
def agentStep (s : State) : Host.Outcome State Fault Refusal :=
  match s.pending with
  | some p => if s.wait = 0 then exec p.instr s else thenNext (hostMove s) State.tick
  | none => hostMove s

/-- The line `wr CMD, w` put first in the script, with the reset pin released; where a command is pending, one more host move comes before
its completion step, so that the host moves next (log 6). -/
def State.withCommandWrite (s : State) (w : Word) : State :=
  { s with
    rstN := true
    host := { s.host with script := .write 0x010 w 0b1111 :: s.host.script }
    wait := if s.busy then s.wait + 1 else s.wait }

end Sys2Proof.Machine
end

