-- ==== Sys2Proof/Machine/Step.lean ====
section
/-! DEFINITION. The step of the machine and the host's way to place an instruction. -/

namespace Sys2Proof.Machine

open Sys2Proof

/-- One step: one bus transaction, host line or reset event, or one completion step (R16, R59, R62). -/
def step (s : State) : Host.Outcome State Fault Refusal := agentStep s

/-- s with the command word w as the host's very next CMD write. The word is the whole instruction (R65, R70). -/
def State.withFetchWord (s : State) (_nbits w : Nat) : State := s.withCommandWrite (BitVec.ofNat 32 w)

end Sys2Proof.Machine
end

