-- ==== Sys2Proof/Machine/Assembly.lean ====
section
/-! DEFINITION. The host assembly language (30_encoding R80, R81): its lines and their expansion into host moves. Host variables are numbers
(log 6); `Sys2Proof.Machine.State.load` puts a program into the script. -/

namespace Sys2Proof.Machine

open Sys2Proof

/-- The offset of a register name (R24, R80). -/
def regOffset : Reg → Nat
  | .id => 0x000
  | .version => 0x004
  | .ctrl => 0x008
  | .status => 0x00C
  | .cmd => 0x010
  | .errcode => 0x014
  | .argSrc => 0x018
  | .argSlen => 0x01C
  | .argSrc2 => 0x020
  | .argS2len => 0x024
  | .argDst => 0x028
  | .argDlen => 0x02C
  | .argIter => 0x030
  | .packCount => 0x034
  | .cksum => 0x038
  | .shaLenLo => 0x03C
  | .shaLenHi => 0x040
  | .shaH i => 0x060 + 4 * i
  | .reserved => 0x044

/-- A line of a host program (R80, R81). -/
inductive Asm where
  /-- `wr OFF, V`. -/
  | wr (off : Nat) (v : Word)
  /-- `rd OFF -> name`. -/
  | rd (off : Nat) (var : Nat)
  | poll
  /-- `expect name, V`. -/
  | expect (var : Nat) (v : Word)
  /-- A command mnemonic alone: `wr CMD, <its word>`. -/
  | cmd (i : Instr)
  /-- `spad.put OFF, bytes`; OFF a multiple of 4. -/
  | spadPut (off : Nat) (bytes : List Byte)
  /-- `spad.get OFF, N -> name`: the words go to the variables `var`, `var + 1`, ... (log 6). -/
  | spadGet (off n var : Nat)
  | shaUpdate (src len : Word)
  | shaFinal (dst : Word)
  | sha256 (dst src len : Word)
  | cksumAppend (src len : Word)
  | pack (dst src len : Word)
  /-- `PBKDF2 dst, dlen, pw, pwlen, salt, saltlen`. -/
  | pbkdf2 (dst dlen pw pwlen salt saltlen : Word)
  /-- `PBKDF2.M dst, dlen, pw, pwlen, pass, passlen`. -/
  | pbkdf2M (dst dlen pw pwlen pass passlen : Word)
  /-- `run X`: X, then `poll`. -/
  | run (x : Asm)
  | clear
  deriving DecidableEq, Repr

/-- The well-formedness of a line: an offset is a 12-bit byte offset of the window (R50); `spad.put` takes an offset that is a multiple of 4
(R81); the words of `spad.put` and `spad.get` lie in the scratchpad window (R53). -/
def Asm.wellFormed : Asm → Bool
  | .wr off _ => decide (off < 4096)
  | .rd off _ => decide (off < 4096)
  | .spadPut off bytes => off % 4 == 0 && decide (off + 4 * ((bytes.length + 3) / 4) ≤ Config.spadSize)
  | .spadGet off n _ => decide (off + 4 * ((n + 3) / 4) ≤ Config.spadSize)
  | .run x => x.wellFormed
  | _ => true

/-- `wr OFF, V` is `Write(OFF, V, 0b1111)` (R80). -/
def wrOp (off : Nat) (v : Word) : HostOp := .write (BitVec.ofNat 12 off) v 0b1111

/-- A write to a register by name. -/
def wrReg (r : Reg) (v : Word) : HostOp := wrOp (regOffset r) v

/-- The word writes of `spad.put`: groups of four bytes, the last one padded with zero bytes (R81). -/
def spadPutOps : Nat → Nat → List Byte → List HostOp
  | 0, _, _ => []
  | k + 1, off, bytes =>
    wrOp (0x800 + off) (BitVec.ofNat 32 (ofLe (bytes.take 4))) :: spadPutOps k (off + 4) (bytes.drop 4)

/-- The host moves a line stands for (R80, R81). -/
def Asm.expand : Asm → List HostOp
  | .wr off v => [wrOp off v]
  | .rd off var => [.read (BitVec.ofNat 12 off) var]
  | .poll => [.poll]
  | .expect var v => [.expect var v]
  | .cmd i => [wrReg .cmd (encode i)]
  | .spadPut off bytes => spadPutOps ((bytes.length + 3) / 4) off bytes
  | .spadGet off n var => (List.range ((n + 3) / 4)).map fun k => .read (BitVec.ofNat 12 (0x800 + off + 4 * k)) (var + k)
  | .shaUpdate src len => [wrReg .argSrc src, wrReg .argSlen len, wrReg .cmd 0x00000002]
  | .shaFinal dst => [wrReg .argDst dst, wrReg .cmd 0x00000003]
  | .sha256 dst src len => [wrReg .argSrc src, wrReg .argSlen len, wrReg .argDst dst, wrReg .cmd 0x00000004]
  | .cksumAppend src len => [wrReg .argSrc src, wrReg .argSlen len, wrReg .cmd 0x00000005]
  | .pack dst src len => [wrReg .argSrc src, wrReg .argSlen len, wrReg .argDst dst, wrReg .cmd 0x00000006]
  | .pbkdf2 dst dlen pw pwlen salt saltlen =>
    [wrReg .argSrc pw, wrReg .argSlen pwlen, wrReg .argSrc2 salt, wrReg .argS2len saltlen, wrReg .argDst dst, wrReg .argDlen dlen,
      wrReg .cmd 0x00000007]
  | .pbkdf2M dst dlen pw pwlen pass passlen =>
    [wrReg .argSrc pw, wrReg .argSlen pwlen, wrReg .argSrc2 pass, wrReg .argS2len passlen, wrReg .argDst dst, wrReg .argDlen dlen,
      wrReg .cmd 0x00000107]
  | .run x => x.expand ++ [.poll]
  | .clear => [wrReg .status 0x0000001E]

/-- The byte string `spad.get OFF, N -> name` names: the first N bytes of the words read, each as LE_4 (R81). -/
def spadGetBytes (vars : List (Nat × Word)) (n var : Nat) : List Byte :=
  ((List.range ((n + 3) / 4)).flatMap fun k => le 4 ((cellGet vars (var + k)).getD 0).toNat).take n

/-! ### Host programs the rules name -/

/-- A command of a host that handles failure: after the `run` it reads STATUS and stops unless DONE alone is set (R128), the reading a run
from reset gives when no check has failed. -/
def Asm.guarded (x : Asm) : List Asm := [.run x, .rd (regOffset .status) 1, .expect 1 0x00000002]

/-- Step 1 of the boot sequence: identify the block (R151). -/
def identifyProgram : List Asm :=
  [.rd (regOffset .id) 1, .expect 1 Config.idWord, .rd (regOffset .version) 2, .expect 2 Config.versionWord]

/-- ComputeChecksum, AppendChecksum and PackBits: n entropy bytes at e to indices at x (R127). -/
def indicesProgram (x e n : Word) : List Asm := (Asm.cksumAppend e n).guarded ++ (Asm.pack x e (n + 1)).guarded

/-- DeriveSeed: the phrase at p and the passphrase at q to 64 seed bytes at y, with 2048 iterations (R124, R127). -/
def seedProgram (y p plen q qlen : Word) : List Asm :=
  .wr (regOffset .argIter) 2048 :: (Asm.pbkdf2M y 64 p plen q qlen).guarded

/-- The host holds a program, its lines expanded in order, and a run of it begins: no variable has a value, no `expect` has failed and the
run's error log is empty, whatever ran before (R80, R161, R163; log 6). The block is as it stands. -/
def State.load (s : State) (lines : List Asm) : State :=
  { s with host := { State.reset.host with script := lines.flatMap Asm.expand } }

end Sys2Proof.Machine
end

