-- ==== Sys2Proof/Safety.lean ====
section
/-! DEFINITION. The terms claims are stated in: the invariant of the machine, the duties of a host (70_reset R162), and the end of a run
(R163). -/

namespace Sys2Proof.Machine

open Sys2Proof

/-! ### Terms -/

/-- Region (a, |m|) holds the byte string m, every byte of it written since reset (R15, R55, R57). -/
def Memory.Holds (mem : Memory) (a : Nat) (m : List Byte) : Prop := ∀ i (h : i < m.length), mem.byte (a + i) = some m[i]

/-- The code acceptance reports, or none where it accepts: the table of R79 row by row, the first condition that holds deciding, written in
plain arithmetic. Lengths and offsets are integers (R14). -/
def rejection (i : Instr) (l : Latched) (sha : ShaState) : Option ErrCode :=
  let src := l.src.toNat
  let slen := l.slen.toNat
  let src2 := l.src2.toNat
  let s2len := l.s2len.toNat
  let dst := l.dst.toNat
  let dlen := l.dlen.toNat
  let gw := l.gw.toNat
  let n := 8 * slen / gw
  match i with
  | .nop => none
  | .shaInit => none
  | .shaUpdate =>
    if sha.active = false then some .sequence
    else if src + slen > 2048 then some .range
    else if sha.len.toNat + slen > 2 ^ 61 - 1 then some .length
    else none
  | .shaFinal =>
    if sha.active = false then some .sequence
    else if dst + 32 > 2048 then some .range
    else none
  | .sha256 =>
    if src + slen > 2048 then some .range
    else if dst + 32 > 2048 then some .range
    else if slen > 0 ∧ src < dst + 32 ∧ dst < src + slen then some .overlap
    else none
  | .cksumAppend => if src + slen + 1 > 2048 then some .range else none
  | .pack =>
    if gw = 0 ∨ gw > 16 then some .config
    else if src + slen > 2048 then some .range
    else if 8 * slen % gw ≠ 0 ∧ l.trunc = false then some .remainder
    else if dst + 2 * n > 2048 then some .range
    else if slen > 0 ∧ n > 0 ∧ src < dst + 2 * n ∧ dst < src + slen then some .overlap
    else none
  | .pbkdf2 | .pbkdf2M =>
    if l.iter = 0 ∨ l.dlen = 0 then some .config
    else if src + slen > 2048 then some .range
    else if src2 + s2len > 2048 then some .range
    else if dst + dlen > 2048 then some .range
    else if slen > 0 ∧ src < dst + dlen ∧ dst < src + slen then some .overlap
    else if s2len > 0 ∧ src2 < dst + dlen ∧ dst < src2 + s2len then some .overlap
    else none

/-- Command i is pending with operands l, it is the engine's turn, and the operands pass the checks of acceptance (R78, R79). -/
def State.AtCompletion (s : State) (i : Instr) (l : Latched) : Prop :=
  s.pending = some ⟨i, l⟩ ∧ s.wait = 0 ∧ rejection i l s.sha = none

/-- It is the host's turn: no command is pending, or a host move is left before the completion step (R16; log 1). -/
def State.HostTurn (s : State) : Prop := s.pending = none ∨ s.wait ≠ 0

/-- The SHA-256 engine is in an open stream that has absorbed the byte string m: R45, R99 and R106 as one relation. -/
def ShaState.Streams (sha : ShaState) (m : List Byte) : Prop :=
  sha.active = true ∧ sha.len.toNat = m.length ∧ sha.buf = m.drop (64 * (m.length / 64)) ∧
    sha.h = absorb256 (m.length / 64) iv256 m

/-- v is the first `bits` bits of the fractional part of the root of p of the given degree: with q its integer part, q.v is that root cut off
after `bits` binary places. What R92, R93, R109 and R110 say of each constant. -/
def IsRootFraction (degree bits p v : Nat) : Prop :=
  v < 2 ^ bits ∧ ∃ q : Nat,
    (2 ^ bits * q + v) ^ degree ≤ 2 ^ (bits * degree) * p ∧ 2 ^ (bits * degree) * p < (2 ^ bits * q + v + 1) ^ degree

/-- The schedule and the compression of a block, line by line: W by its recurrence (R95, R112), then the working variables a to h, words 0 to 7
of v t before round t, through every round (R96, R113), with Ch and Maj written out (R94, R111). -/
def Sha2.FollowsTheRules {w : Nat} (f : Sha2 w) (rounds : Nat) (S0 S1 s0 s1 : BitVec w → BitVec w) : Prop :=
  ∀ (h : Hash w) (m : List Byte), m.length = 2 * w →
    ∃ (W : Nat → BitVec w) (v : Nat → Hash w),
      f.schedule m = (List.range rounds).map W ∧
      (∀ t, t < 16 → W t = BitVec.ofNat w (ofBe ((m.drop (w / 8 * t)).take (w / 8)))) ∧
      (∀ t, 16 ≤ t → t < rounds → W t = s1 (W (t - 2)) + W (t - 7) + s0 (W (t - 15)) + W (t - 16)) ∧
      v 0 = h ∧
      (∀ t, t < rounds → ∃ a b c d e f' g h' T1 T2 : BitVec w,
        v t = ⟨a, b, c, d, e, f', g, h'⟩ ∧
        T1 = h' + S1 e + ((e &&& f') ^^^ (~~~e &&& g)) + f.k.getD t 0 + W t ∧
        T2 = S0 a + ((a &&& b) ^^^ (a &&& c) ^^^ (b &&& c)) ∧
        v (t + 1) = ⟨T1 + T2, a, b, c, d + T1, e, f', g⟩) ∧
      f.compress h m =
        ⟨h.h0 + (v rounds).h0, h.h1 + (v rounds).h1, h.h2 + (v rounds).h2, h.h3 + (v rounds).h3,
          h.h4 + (v rounds).h4, h.h5 + (v rounds).h5, h.h6 + (v rounds).h6, h.h7 + (v rounds).h7⟩

/-- U_(j+1) of R116, for block index i. -/
def pbkdf2U (password salt : List Byte) (i : Nat) : Nat → List Byte
  | 0 => hmacSha512 password (salt ++ be 4 i)
  | j + 1 => hmacSha512 password (pbkdf2U password salt i j)

/-- The shift accumulator of R91: the bits held, their number, and the groups emitted so far. -/
structure PackAcc where
  value : Nat
  held : Nat
  out : List Nat
  deriving DecidableEq, Repr

/-- One bit is shifted in; a group is emitted, and the accumulator cleared, when GW bits are held (R91). -/
def PackAcc.feed (gw : Nat) (a : PackAcc) (bit : Nat) : PackAcc :=
  if a.held + 1 = gw then { value := 0, held := 0, out := a.out ++ [2 * a.value + bit] }
  else { value := 2 * a.value + bit, held := a.held + 1, out := a.out }

/-- The accumulator after the whole bit stream of a byte string (R84, R91). -/
def packAccumulate (gw : Nat) (s : List Byte) : PackAcc :=
  ((List.range (8 * s.length)).map (streamBit s)).foldl (PackAcc.feed gw) { value := 0, held := 0, out := [] }

/-! ### The invariant -/

/-- The SHA-256 engine (R45, R99; log 12): the length is below 2^61; an open stream buffers `len mod 64` bytes, a closed one none. -/
def ShaState.Inv (sha : ShaState) : Prop :=
  sha.len.toNat ≤ Config.shaMaxLen ∧
    (sha.active = true → sha.buf.length = sha.len.toNat % 64) ∧ (sha.active = false → sha.buf = [])

/-- A pending command passes every acceptance check (R75, R134), and DONE, ERR and ERRCODE are as its acceptance left them (R75). -/
def State.PendingInv (s : State) : Prop :=
  ∀ p, s.pending = some p →
    rejection p.instr p.l s.sha = none ∧ s.status.done = false ∧ s.status.err = false ∧ s.errcode = .noError

/-- DONE and ERR are never both set; ERRCODE holds an error while ERR is set, and none while DONE is set (R75, R78, R130). -/
def State.ReportInv (s : State) : Prop :=
  (s.status.done = true → s.status.err = false ∧ s.errcode = .noError) ∧ (s.status.err = true → s.errcode ≠ .noError)

/-- While `rst_n` = 0 all block state has its reset value (R147). -/
def State.ResetInv (s : State) : Prop := s.rstN = false → s.resetBlock = s

/-- What holds at reset and is kept by every step. -/
structure State.Inv (s : State) : Prop where
  spad : s.spad.wf
  vars : cellsSorted s.host.vars
  sha : s.sha.Inv
  pending : s.PendingInv
  report : s.ReportInv
  reset : s.ResetInv

/-! ### The host's duties (R162) -/

/-- The result registers, which read exactly only while BUSY = 0 (R155): PACK_COUNT, CKSUM, SHA_LEN and SHA_H. -/
def Reg.isResult : Reg → Bool
  | .packCount => true
  | .cksum => true
  | .shaLenLo => true
  | .shaLenHi => true
  | .shaH _ => true
  | _ => false

/-- The next line of the host keeps the host's duties: no transaction while `rst_n` = 0, every access aligned with all strobes; CMD is written,
a result register read and the scratchpad touched only while BUSY = 0. A host that has observed BUSY = 0 and issued no command since is in such
a state, because only an accepted CMD write sets BUSY (R29). -/
def State.dutiful (s : State) : Bool :=
  match s.host.script with
  | .write off _ strb :: _ =>
    s.rstN && decide (off.toNat % 4 = 0) && strb == 0b1111 && !(s.busy && (isSpad off || regAt off.toNat == .cmd))
  | .read off _ :: _ => s.rstN && decide (off.toNat % 4 = 0) && !(s.busy && (isSpad off || (regAt off.toNat).isResult))
  | .poll :: _ => s.rstN
  | _ => true

/-! ### The end of a run (R163) -/

/-- The run has ended: no line is left (an `expect` that fails leaves none) and BUSY = 0. -/
def State.runEnded (s : State) : Bool := s.host.script.isEmpty && !s.busy

/-- The run is a failed one: an `expect` has failed. -/
def State.runFailed (s : State) : Bool := s.host.failed

/-- The run has had no error: its error log is empty. -/
def State.runClean (s : State) : Bool := s.host.log.isEmpty

end Sys2Proof.Machine
end

