-- ==== Sys2Proof/Certificates/Slice0/Obligations.lean ====
section
/-! DEFINITION. The statements for the provers. Each docstring names the rule of the spec it formalises. A statement about a free value holds
for every value of it: no `Config` constant it names has a body. -/

open Sys2Proof Sys2Proof.Machine

/-! ## Encoding -/

/-- R72, R73: the word of every command decodes to it, and so does the host's entry to the decoder. -/
def Obligations.EncodeThenDecodeIsTheCommand : Prop :=
  ∀ i : Instr, i.wellFormed = true → decode (encode i) = .ok i ∧ decodeTableWord 32 (encode i).toNat = some i

/-- R72: "So the legal command words are exactly: 0x00000000 to 0x00000007, and 0x00000107." Each of them is the word of one command. -/
def Obligations.LegalWordsAreTheNineCommandWords : Prop :=
  ∀ w : Word, (∀ i, decode w = .ok i ↔ w = encode i) ∧ ((∃ i, decode w = .ok i) ↔ w.toNat ≤ 7 ∨ w.toNat = 0x107)

/-- R73: a word with OP in 0x08..0xFF, RSV not 0, or M = 1 with OP not 0x07 is rejected with ILLEGAL and no other effect, and every word
without these is a command. -/
def Obligations.IllegalWordIsRejected : Prop :=
  ∀ w : Word,
    ((8 ≤ (w.extractLsb' 0 8).toNat ∨ w.extractLsb' 9 23 ≠ 0 ∨ (w.getLsbD 8 = true ∧ w.extractLsb' 0 8 ≠ 7)) →
      ∀ s : State, s.pending = none →
        issueWord w s = .next
          { s with
            status := { s.status with done := false, err := true }
            errcode := .illegal
            host := { s.host with log := s.host.log ++ [.rejected .illegal] } }) ∧
    (¬(8 ≤ (w.extractLsb' 0 8).toNat ∨ w.extractLsb' 9 23 ≠ 0 ∨ (w.getLsbD 8 = true ∧ w.extractLsb' 0 8 ≠ 7)) →
      ∃ i, decode w = .ok i)

/-- R72, and the illegal words of V-EN2 to V-EN6. -/
def Obligations.TableWordsDecode : Prop :=
  decode 0x00000000 = .ok .nop ∧ decode 0x00000001 = .ok .shaInit ∧ decode 0x00000002 = .ok .shaUpdate ∧
    decode 0x00000003 = .ok .shaFinal ∧ decode 0x00000004 = .ok .sha256 ∧ decode 0x00000005 = .ok .cksumAppend ∧
    decode 0x00000006 = .ok .pack ∧ decode 0x00000007 = .ok .pbkdf2 ∧ decode 0x00000107 = .ok .pbkdf2M ∧
    decode 0x00000008 = .error .unknownOpcode ∧ decode 0x000000FF = .error .unknownOpcode ∧
    decode 0x00000102 = .error .mnemonicFlag ∧ decode 0x00000207 = .error .reservedBits ∧
    decode 0x80000000 = .error .reservedBits

/-! ## The step -/

/-- R31, R65, R75: in the host's turn, a CMD write of a command's word is exec of that command, at the state with the line taken and the
answer err = 0; with a command pending, one host move less is left before its completion (log 1). -/
def Obligations.StepIssuesTheDecodedCommand : Prop :=
  ∀ (s : State) (rest : List HostOp) (w : Word) (i : Instr),
    s.host.script = .write 0x010 w 0b1111 :: rest → s.rstN = true → decode w = .ok i →
      (s.pending = none →
        step s = exec i { s with host := { s.host with script := rest, resp := ⟨0, false⟩ } }) ∧
      (s.pending ≠ none → s.wait ≠ 0 →
        step s = thenNext (exec i { s with host := { s.host with script := rest, resp := ⟨0, false⟩ } })
          (fun t => { t with wait := t.wait - 1 }))

/-- R16, R78: in the engine's turn a step is exec of the pending command. -/
def Obligations.StepCompletesThePendingCommand : Prop :=
  ∀ (s : State) (p : Pending), s.pending = some p → s.wait = 0 → step s = exec p.instr s

/-- A placed instruction is the very next one the step runs (log 6). -/
def Obligations.PlacedWordIsTheNextCommand : Prop :=
  ∀ (s : State) (w : Nat) (i : Instr), decodeTableWord 32 w = some i →
    (s.pending = none →
      step (s.withFetchWord 32 w) = exec i { s with rstN := true, host := { s.host with resp := ⟨0, false⟩ } }) ∧
    (s.pending ≠ none →
      step (s.withFetchWord 32 w) =
        thenNext (exec i { s with rstN := true, host := { s.host with resp := ⟨0, false⟩ }, wait := s.wait + 1 })
          (fun t => { t with wait := t.wait - 1 }))

/-- R16, R50, R80: in the host's turn a step is the next line of the host, or nothing where there is none (log 7); with a command pending one
host move less is left (log 1). -/
def Obligations.StepTakesTheNextHostLine : Prop :=
  ∀ s : State, s.HostTurn →
    (∀ op rest, s.host.script = op :: rest →
      (s.pending = none → step s = (s.setScript rest).hostOp op) ∧
      (s.pending ≠ none → step s = thenNext ((s.setScript rest).hostOp op) (fun t => { t with wait := t.wait - 1 }))) ∧
    (s.host.script = [] →
      (s.pending = none → step s = .next s) ∧ (s.pending ≠ none → step s = .next { s with wait := s.wait - 1 }))

/-- R150: a transaction while `rst_n` = 0 is refused, with no step. -/
def Obligations.TransactionInResetIsRefused : Prop :=
  ∀ (s : State) (rest : List HostOp), s.rstN = false → s.pending = none →
    (∀ off d strb, s.host.script = .write off d strb :: rest → step s = .refused .transactionInReset) ∧
    (∀ off var, s.host.script = .read off var :: rest → step s = .refused .transactionInReset) ∧
    (s.host.script = .poll :: rest → step s = .refused .transactionInReset)

/-! ## Acceptance -/

/-- R79, R130, R133: the first condition of the command's row that holds decides the error; DONE is cleared, ERR set, ERRCODE holds the code,
and nothing else of the block changes. -/
def Obligations.RejectionReportsTheFirstFailingCheck : Prop :=
  ∀ (i : Instr) (s : State) (code : ErrCode), s.pending = none →
    rejection i ⟨s.args, s.ctrl.gw, s.ctrl.packTrunc⟩ s.sha = some code →
      exec i s = .next
        { s with
          status := { s.status with done := false, err := true }
          errcode := code
          host := { s.host with log := s.host.log ++ [.rejected code] } }

/-- R75, R76: a command whose checks all pass clears DONE, ERR and ERRCODE, latches the ARG registers, GW and PACK_TRUNC with its opcode, and so
sets BUSY; the number of host moves until its completion is a free value (log 1). -/
def Obligations.AcceptanceLatchesTheOperands : Prop :=
  ∀ (i : Instr) (s : State), s.pending = none →
    rejection i ⟨s.args, s.ctrl.gw, s.ctrl.packTrunc⟩ s.sha = none →
      exec i s = .next
        { s with
          status := { s.status with done := false, err := false }
          errcode := .noError
          pending := some ⟨i, ⟨s.args, s.ctrl.gw, s.ctrl.packTrunc⟩⟩
          wait := Config.engineDelay s.fresh
          fresh := s.fresh + 1 }

/-- R77: a CMD write of any word while BUSY = 1, in the host's turn, is dropped: CMD_OVR is set, the write is answered err = 0, and DONE, ERR,
ERRCODE, the one pending command and everything else of the block stay. -/
def Obligations.BusyCommandIsDropped : Prop :=
  ∀ (s : State) (p : Pending) (w : Word), s.pending = some p → s.wait ≠ 0 →
    s.busWrite 0x010 w 0b1111 = .next
      { s with
        status := { s.status with cmdOvr := true }
        host := { s.host with resp := ⟨0, false⟩, log := s.host.log ++ [.dropped] } }

/-- R156: a read of STATUS right after a CMD write of any word, in an idle state, shows BUSY = 1 exactly when the command was accepted and ERR = 1
exactly when it was rejected, and a read of ERRCODE shows the code, 0 when it was accepted. -/
def Obligations.StatusShowsTheOutcomeOfACommandWrite : Prop :=
  ∀ (s : State) (w : Word), s.pending = none →
    ∃ (t : State) (code : ErrCode), s.busWrite 0x010 w 0b1111 = .next t ∧
      (code = .noError ↔ ∃ i, decode w = .ok i ∧ rejection i ⟨s.args, s.ctrl.gw, s.ctrl.packTrunc⟩ s.sha = none) ∧
      ((t.busRead 0x00C).host.resp.data.getLsbD 0 = true ↔ code = .noError) ∧
      ((t.busRead 0x00C).host.resp.data.getLsbD 2 = true ↔ code ≠ .noError) ∧
      (t.busRead 0x014).host.resp = ⟨code.code.setWidth 32, false⟩

/-! ## Completion, one statement a command -/

/-- R126: NOP has the word 0; it is accepted in every idle state, whatever its operands, and dropped while BUSY = 1; its completion changes
nothing but BUSY and DONE, and raises the interrupt when IRQ_EN = 1; STATUS then reads 0x00000002 when no other bit was set. -/
def Obligations.NopOnlyCompletes : Prop :=
  encode .nop = 0x00000000 ∧
  (∀ s : State, s.pending = none →
    ∃ moves fresh : Nat,
      exec .nop s = .next
        { s with
          status := { s.status with done := false, err := false }
          errcode := .noError
          pending := some ⟨.nop, ⟨s.args, s.ctrl.gw, s.ctrl.packTrunc⟩⟩
          wait := moves
          fresh := fresh }) ∧
  (∀ (s : State) (p : Pending), s.pending = some p → s.wait ≠ 0 →
    exec .nop s = .next
      { s with status := { s.status with cmdOvr := true }, host := { s.host with log := s.host.log ++ [.dropped] } }) ∧
  ∀ (s t : State) (l : Latched), t = { s with status := { s.status with done := true }, pending := none } →
    s.pending = some ⟨.nop, l⟩ → s.wait = 0 →
      exec .nop s = .next t ∧ t.irq = s.ctrl.irqEn ∧
        (s.status = ⟨false, false, false, false⟩ → s.sha.active = false → (t.busRead 0x00C).host.resp.data = 0x00000002)

/-- R100: SHA256.INIT has the word 1 and no errors; its completion opens an empty stream from the initial hash value, whatever stream was open,
and changes nothing else. -/
def Obligations.ShaInitOpensAnEmptyStream : Prop :=
  encode .shaInit = 0x00000001 ∧
  (∀ s : State, s.pending = none → ∃ t, exec .shaInit s = .next t ∧ t.pending ≠ none ∧ t.status.err = false) ∧
  ∀ (s : State) (l : Latched), s.pending = some ⟨.shaInit, l⟩ → s.wait = 0 →
    exec .shaInit s = .next
      { s with
        sha :=
          { active := true
            h := ⟨0x6a09e667, 0xbb67ae85, 0x3c6ef372, 0xa54ff53a, 0x510e527f, 0x9b05688c, 0x1f83d9ab, 0x5be0cd19⟩
            len := 0
            buf := [] }
        status := { s.status with done := true }
        pending := none }

/-- R101: SHA256.UPDATE of a written region m: with t the buffered bytes and then m, every complete 64-byte block of t is compressed in order, the
rest is buffered, and the length grows by |m|. Nothing of the scratchpad changes. -/
def Obligations.ShaUpdateAbsorbsTheRegion : Prop :=
  ∀ (s : State) (l : Latched) (m : List Byte), s.AtCompletion .shaUpdate l →
    m.length = l.slen.toNat → s.spad.Holds l.src.toNat m →
      exec .shaUpdate s = .next
        { s with
          sha :=
            { active := s.sha.active
              h := absorb256 ((s.sha.buf ++ m).length / 64) s.sha.h (s.sha.buf ++ m)
              len := BitVec.ofNat 64 (s.sha.len.toNat + l.slen.toNat)
              buf := (s.sha.buf ++ m).drop (64 * ((s.sha.buf ++ m).length / 64)) }
          status := { s.status with done := true }
          pending := none }

/-- R102: SHA256.FINAL compresses the buffered bytes with their padding, writes the 32 digest bytes at DST and nowhere else, keeps the length, and
closes the stream. -/
def Obligations.ShaFinalWritesTheDigest : Prop :=
  ∀ (s : State) (l : Latched) (p : List Byte) (h : Hash 32), s.AtCompletion .shaFinal l →
    p = s.sha.buf ++ pad256 s.sha.len.toNat → h = absorb256 (p.length / 64) s.sha.h p →
      ∃ m : Memory,
        exec .shaFinal s = .next
          { s with
            sha := { active := false, h := h, len := s.sha.len, buf := [] }
            spad := m
            status := { s.status with done := true }
            pending := none } ∧
        m.Holds l.dst.toNat h.digest ∧
        ∀ a, a < l.dst.toNat ∨ l.dst.toNat + 32 ≤ a → m.byte a = s.spad.byte a

/-- R103: SHA256 of a written region m writes SHA256(m) at DST and nowhere else, and leaves the engine with the final hash words, the length of m
and no stream. -/
def Obligations.Sha256WritesTheDigest : Prop :=
  ∀ (s : State) (l : Latched) (x : List Byte), s.AtCompletion .sha256 l →
    x.length = l.slen.toNat → s.spad.Holds l.src.toNat x →
      ∃ m : Memory,
        exec .sha256 s = .next
          { s with
            sha := { active := false, h := hashFinal256 x, len := l.slen.setWidth 64, buf := [] }
            spad := m
            status := { s.status with done := true }
            pending := none } ∧
        m.Holds l.dst.toNat (sha256Digest x) ∧
        ∀ a, a < l.dst.toNat ∨ l.dst.toNat + 32 ≤ a → m.byte a = s.spad.byte a

/-- R104: CKSUM.APPEND of a written region m writes byte 0 of SHA256(m) right after it and nowhere else, copies it to CKSUM, and leaves the engine as
SHA256 does. -/
def Obligations.CksumAppendWritesTheChecksum : Prop :=
  ∀ (s : State) (l : Latched) (x : List Byte), s.AtCompletion .cksumAppend l →
    x.length = l.slen.toNat → s.spad.Holds l.src.toNat x →
      ∃ (m : Memory) (c : Byte),
        (sha256Digest x)[0]? = some c ∧
        exec .cksumAppend s = .next
          { s with
            sha := { active := false, h := hashFinal256 x, len := l.slen.setWidth 64, buf := [] }
            cksum := c
            spad := m
            status := { s.status with done := true }
            pending := none } ∧
        m.Holds l.src.toNat (x ++ [c]) ∧
        ∀ a, a ≠ l.src.toNat + l.slen.toNat → m.byte a = s.spad.byte a

/-- R85, R86: PACK of a written region writes index k, the stream bits k*GW to k*GW+GW-1 with the first one most significant, as a little-endian
halfword at DST + 2k for every complete group, writes nothing else, and sets PACK_COUNT to the number of groups. -/
def Obligations.PackWritesTheIndices : Prop :=
  ∀ (s : State) (l : Latched) (x : List Byte), s.AtCompletion .pack l →
    x.length = l.slen.toNat → s.spad.Holds l.src.toNat x →
      ∃ m : Memory,
        exec .pack s = .next
          { s with
            packCount := BitVec.ofNat 32 (8 * x.length / l.gw.toNat)
            spad := m
            status := { s.status with done := true }
            pending := none } ∧
        (∀ k, k < 8 * x.length / l.gw.toNat →
          m.byte (l.dst.toNat + 2 * k) = some (BitVec.ofNat 8 (packIndex x l.gw.toNat k)) ∧
          m.byte (l.dst.toNat + 2 * k + 1) = some (BitVec.ofNat 8 (packIndex x l.gw.toNat k / 256))) ∧
        ∀ a, a < l.dst.toNat ∨ l.dst.toNat + 2 * (8 * x.length / l.gw.toNat) ≤ a → m.byte a = s.spad.byte a

/-- R120, R121, R123: PBKDF2 with written password and salt regions writes the derived key at DST, DLEN bytes, and changes nothing else, the
SHA-256 engine, PACK_COUNT and CKSUM least of all; PBKDF2.M does the same with "mnemonic" before the salt region. -/
def Obligations.Pbkdf2WritesTheDerivedKey : Prop :=
  ∀ (i : Instr) (s : State) (l : Latched) (password region salt : List Byte), s.AtCompletion i l →
    (i = .pbkdf2 ∧ salt = region) ∨
      (i = .pbkdf2M ∧ salt = [0x6D, 0x6E, 0x65, 0x6D, 0x6F, 0x6E, 0x69, 0x63] ++ region) →
    password.length = l.slen.toNat → s.spad.Holds l.src.toNat password →
    region.length = l.s2len.toNat → s.spad.Holds l.src2.toNat region →
      ∃ m : Memory,
        exec i s = .next { s with spad := m, status := { s.status with done := true }, pending := none } ∧
        m.Holds l.dst.toNat (pbkdf2Derive password salt l.iter.toNat l.dlen.toNat) ∧
        (pbkdf2Derive password salt l.iter.toNat l.dlen.toNat).length = l.dlen.toNat ∧
        ∀ a, a < l.dst.toNat ∨ l.dst.toNat + l.dlen.toNat ≤ a → m.byte a = s.spad.byte a

/-! ## Commands on unwritten bytes (R57; the model's reading of U4 is log 4) -/

/-- R57, log 4: SHA256.UPDATE of a region with an unwritten byte still completes, the length as R101 says. With n bytes in the buffer and the region
together, of which whole blocks are compressed: the eight hash words are free values where n >= 64 and unchanged where not, and of the bytes left
to buffer those that stood in the buffer and those that are written in the region are exact, and each unwritten one is a free value. -/
def Obligations.ShaUpdateOfUnwrittenBytesCompletes : Prop :=
  ∀ (s : State) (l : Latched) (n done : Nat), s.AtCompletion .shaUpdate l → s.spad.written l.src.toNat l.slen.toNat = false →
    n = s.sha.buf.length + l.slen.toNat → done = 64 * (n / 64) →
      ∃ (buf : List Byte) (h : Hash 32),
        exec .shaUpdate s = .next
          { s with
            sha := { active := s.sha.active, h := h, len := s.sha.len + l.slen.setWidth 64, buf := buf }
            status := { s.status with done := true }
            pending := none
            fresh := s.fresh + (l.slen.toNat + 8) } ∧
        (n < 64 → h = s.sha.h) ∧
        (64 ≤ n → h =
          ⟨Config.freeWord s.fresh, Config.freeWord (s.fresh + 1), Config.freeWord (s.fresh + 2), Config.freeWord (s.fresh + 3),
            Config.freeWord (s.fresh + 4), Config.freeWord (s.fresh + 5), Config.freeWord (s.fresh + 6), Config.freeWord (s.fresh + 7)⟩) ∧
        buf.length = n % 64 ∧
        (∀ i b, done ≤ i → s.sha.buf[i]? = some b → buf[i - done]? = some b) ∧
        (∀ i b, i < l.slen.toNat → done ≤ s.sha.buf.length + i → s.spad.byte (l.src.toNat + i) = some b →
          buf[s.sha.buf.length + i - done]? = some b) ∧
        (∀ i, i < l.slen.toNat → done ≤ s.sha.buf.length + i → s.spad.byte (l.src.toNat + i) = none →
          buf[s.sha.buf.length + i - done]? = some (Config.freeByte (s.fresh + i)))

/-- R57, log 4: SHA256 and CKSUM.APPEND of a region with an unwritten byte still complete: the eight hash words are free values, the bytes written
and CKSUM are those of the digest the hash words are, and everything else is as for a written region. -/
def Obligations.OneShotHashOfUnwrittenBytesCompletes : Prop :=
  ∀ (s : State) (l : Latched) (h : Hash 32), s.spad.written l.src.toNat l.slen.toNat = false →
    h =
      ⟨Config.freeWord s.fresh, Config.freeWord (s.fresh + 1), Config.freeWord (s.fresh + 2), Config.freeWord (s.fresh + 3),
        Config.freeWord (s.fresh + 4), Config.freeWord (s.fresh + 5), Config.freeWord (s.fresh + 6), Config.freeWord (s.fresh + 7)⟩ →
    (s.AtCompletion .sha256 l →
      ∃ m : Memory,
        exec .sha256 s = .next
          { s with
            sha := { active := false, h := h, len := l.slen.setWidth 64, buf := [] }
            spad := m
            status := { s.status with done := true }
            pending := none
            fresh := s.fresh + (l.slen.toNat + 8) } ∧
        m.Holds l.dst.toNat h.digest ∧
        ∀ a, a < l.dst.toNat ∨ l.dst.toNat + 32 ≤ a → m.byte a = s.spad.byte a) ∧
    (s.AtCompletion .cksumAppend l →
      ∃ m : Memory,
        exec .cksumAppend s = .next
          { s with
            sha := { active := false, h := h, len := l.slen.setWidth 64, buf := [] }
            cksum := (Config.freeWord s.fresh).extractLsb' 24 8
            spad := m
            status := { s.status with done := true }
            pending := none
            fresh := s.fresh + (l.slen.toNat + 8) } ∧
        m.byte (l.src.toNat + l.slen.toNat) = some ((Config.freeWord s.fresh).extractLsb' 24 8) ∧
        ∀ a, a ≠ l.src.toNat + l.slen.toNat → m.byte a = s.spad.byte a)

/-- R57, U4, log 4: PACK of a region with an unwritten byte still sets PACK_COUNT to the number n of groups and writes exactly the destination
region, each of its 2n bytes a free value. -/
def Obligations.PackOfUnwrittenBytesCompletes : Prop :=
  ∀ (s : State) (l : Latched) (n : Nat), s.AtCompletion .pack l → s.spad.written l.src.toNat l.slen.toNat = false →
    n = 8 * l.slen.toNat / l.gw.toNat →
      ∃ m : Memory,
        exec .pack s = .next
          { s with
            packCount := BitVec.ofNat 32 n
            spad := m
            status := { s.status with done := true }
            pending := none
            fresh := s.fresh + 2 * n } ∧
        (∀ j, j < 2 * n → m.byte (l.dst.toNat + j) = some (Config.freeByte (s.fresh + j))) ∧
        ∀ a, a < l.dst.toNat ∨ l.dst.toNat + 2 * n ≤ a → m.byte a = s.spad.byte a

/-- R57, log 4: PBKDF2 and PBKDF2.M with an unwritten byte in the password or the salt still complete and write DLEN free bytes, nothing else. -/
def Obligations.Pbkdf2OfUnwrittenBytesCompletes : Prop :=
  ∀ (s : State) (l : Latched) (i : Instr), i = .pbkdf2 ∨ i = .pbkdf2M → s.AtCompletion i l →
    s.spad.written l.src.toNat l.slen.toNat = false ∨ s.spad.written l.src2.toNat l.s2len.toNat = false →
      ∃ m : Memory,
        exec i s = .next
          { s with spad := m, status := { s.status with done := true }, pending := none, fresh := s.fresh + l.dlen.toNat } ∧
        (∀ k, k < l.dlen.toNat → m.byte (l.dst.toNat + k) = some (Config.freeByte (s.fresh + k))) ∧
        ∀ a, a < l.dst.toNat ∨ l.dst.toNat + l.dlen.toNat ≤ a → m.byte a = s.spad.byte a

/-! ## The algorithms -/

/-- R97, R98, R114: the padding of an l-byte message is 0x80, k zero bytes, k = (55 - l) mod 64 for SHA-256 and (111 - l) mod 128 for SHA-512, and
the bit count in 8 or 16 big-endian bytes; it fills whole blocks, for SHA-256 one when l mod 64 <= 55 and two otherwise. Hfinal256 and both
digests are the compression of the padded blocks in order from the initial value, the words big-endian, word 0 first; byte 0 of the SHA-256 digest is
H[0][31:24]. -/
def Obligations.Sha256PaddingFillsWholeBlocks : Prop :=
  (∀ l : Nat,
    (∃ k : Nat, (k : Int) = (55 - (l : Int)) % 64 ∧ pad256 l = [0x80] ++ List.replicate k 0 ++ be 8 (8 * l)) ∧
    l % 64 + (pad256 l).length = if l % 64 ≤ 55 then 64 else 128) ∧
  (∀ l : Nat,
    (∃ k : Nat, (k : Int) = (111 - (l : Int)) % 128 ∧ sha2Pad 64 l = [0x80] ++ List.replicate k 0 ++ be 16 (8 * l)) ∧
    (l + (sha2Pad 64 l).length) % 128 = 0) ∧
  (∀ (n : Nat) (h : Hash 32) (p : List Byte), ∃ H : Nat → Hash 32,
    H 0 = h ∧ (∀ j, j < n → H (j + 1) = sha256Params.compress (H j) ((p.drop (64 * j)).take 64)) ∧ absorb256 n h p = H n) ∧
  (∀ m p : List Byte, p = m ++ pad256 m.length →
    ∃ h : Hash 32, h = absorb256 (p.length / 64) iv256 p ∧ hashFinal256 m = h ∧
      sha256Digest m =
        be 4 h.h0.toNat ++ be 4 h.h1.toNat ++ be 4 h.h2.toNat ++ be 4 h.h3.toNat ++
          be 4 h.h4.toNat ++ be 4 h.h5.toNat ++ be 4 h.h6.toNat ++ be 4 h.h7.toNat ∧
      (sha256Digest m)[0]? = some (h.h0.extractLsb' 24 8)) ∧
  ∀ m p : List Byte, p = m ++ sha2Pad 64 m.length →
    ∃ (H : Nat → Hash 64) (h : Hash 64),
      H 0 = iv512 ∧ (∀ j, j < p.length / 128 → H (j + 1) = sha512Params.compress (H j) ((p.drop (128 * j)).take 128)) ∧
      h = H (p.length / 128) ∧
      sha512Digest m =
        be 8 h.h0.toNat ++ be 8 h.h1.toNat ++ be 8 h.h2.toNat ++ be 8 h.h3.toNat ++
          be 8 h.h4.toNat ++ be 8 h.h5.toNat ++ be 8 h.h6.toNat ++ be 8 h.h7.toNat

/-- R94 to R96 and R111 to R113: the message schedule and the compression function of both hashes, their sigma functions written out. Each round
constant is the first bits of the cube root of its prime and each word of the initial value those of the square root of its prime, as R92, R93,
R109 and R110 close. -/
def Obligations.MessageScheduleFollowsTheRecurrence : Prop :=
  sha256Params.FollowsTheRules 64
    (fun x => x.rotateRight 2 ^^^ x.rotateRight 13 ^^^ x.rotateRight 22) (fun x => x.rotateRight 6 ^^^ x.rotateRight 11 ^^^ x.rotateRight 25)
    (fun x => x.rotateRight 7 ^^^ x.rotateRight 18 ^^^ (x >>> 3)) (fun x => x.rotateRight 17 ^^^ x.rotateRight 19 ^^^ (x >>> 10)) ∧
  sha512Params.FollowsTheRules 80
    (fun x => x.rotateRight 28 ^^^ x.rotateRight 34 ^^^ x.rotateRight 39) (fun x => x.rotateRight 14 ^^^ x.rotateRight 18 ^^^ x.rotateRight 41)
    (fun x => x.rotateRight 1 ^^^ x.rotateRight 8 ^^^ (x >>> 7)) (fun x => x.rotateRight 19 ^^^ x.rotateRight 61 ^^^ (x >>> 6)) ∧
  (∀ t, t < 64 → IsRootFraction 3 32 (Nat.nth Nat.Prime t) (sha256Params.k.getD t 0).toNat) ∧
  (∀ t, t < 80 → IsRootFraction 3 64 (Nat.nth Nat.Prime t) (sha512Params.k.getD t 0).toNat) ∧
  (∀ i, i < 8 → IsRootFraction 2 32 (Nat.nth Nat.Prime i) (iv256.words.getD i 0).toNat) ∧
  ∀ i, i < 8 → IsRootFraction 2 64 (Nat.nth Nat.Prime i) (iv512.words.getD i 0).toNat

/-- R116: for c >= 1 the block function is U_1 ⊕ ... ⊕ U_c, taken from the left. -/
def Obligations.BlockFunctionXorsTheIterates : Prop :=
  ∀ (password salt : List Byte) (c i : Nat), 1 ≤ c →
    pbkdf2Block password salt c i =
      (List.range (c - 1)).foldl (fun acc j => xorBytes acc (pbkdf2U password salt i (j + 1))) (pbkdf2U password salt i 0)

/-- R117: the derived key has dkLen bytes, and its byte j is byte j mod 64 of block ⌊j / 64⌋ + 1. -/
def Obligations.DerivedKeyIsCutFromItsBlocks : Prop :=
  ∀ (password salt : List Byte) (c dkLen : Nat),
    (pbkdf2Derive password salt c dkLen).length = dkLen ∧
    ∀ j, j < dkLen → (pbkdf2Derive password salt c dkLen)[j]? = (pbkdf2Block password salt c (j / 64 + 1))[j % 64]?

/-- R115: HMAC with SHA-512. A key of at most 128 bytes is used as it is and a longer one is hashed, in both cases with zero bytes up to 128; the
padded key is mixed with 0x36 bytes for the inner hash and with 0x5c bytes for the outer one; the result has 64 bytes. -/
def Obligations.HmacHashesTwiceUnderThePaddedKey : Prop :=
  ∀ key m : List Byte, ∃ k0 : List Byte,
    k0.length = 128 ∧
    (key.length ≤ 128 → k0 = key ++ List.replicate (128 - key.length) 0) ∧
    (128 < key.length → k0 = sha512Digest key ++ List.replicate 64 0) ∧
    hmacSha512 key m = sha512Digest (k0.map (· ^^^ 0x5c) ++ sha512Digest (k0.map (· ^^^ 0x36) ++ m)) ∧
    (hmacSha512 key m).length = 64

/-! ## The bit-packer -/

/-- R89, of a written source region: every index PACK writes, a halfword of the destination region, is below 2^GW. Of a region with an unwritten
byte R57 lets every byte written be any value, and the model follows R57 there (log 4; `PackOfUnwrittenBytesCompletes`). -/
def Obligations.PackedIndexIsBelowTwoToTheWidth : Prop :=
  ∀ (s : State) (l : Latched), s.AtCompletion .pack l → s.spad.written l.src.toNat l.slen.toNat = true →
    ∃ t, exec .pack s = .next t ∧
      ∀ k, k < 8 * l.slen.toNat / l.gw.toNat →
        ∃ lo hi : Byte, t.spad.byte (l.dst.toNat + 2 * k) = some lo ∧ t.spad.byte (l.dst.toNat + 2 * k + 1) = some hi ∧
          lo.toNat + 256 * hi.toNat < 2 ^ l.gw.toNat

/-- R91: shifting the stream into an accumulator that emits a group whenever GW bits are held gives exactly the indices of R85, and at the end holds
the remainder, fewer than GW bits. -/
def Obligations.ShiftAccumulatorPacksTheSameIndices : Prop :=
  ∀ (x : List Byte) (gw : Nat), 1 ≤ gw →
    (packAccumulate gw x).out = packIndices x gw (8 * x.length / gw) ∧ (packAccumulate gw x).held = 8 * x.length % gw

/-- R88: with GW = 8 index k is byte k, with GW = 16 it is the big-endian halfword k, with GW = 1 it is stream bit k. -/
def Obligations.PackCornerWidths : Prop :=
  ∀ (x : List Byte) (k : Nat),
    (∀ b, x[k]? = some b → packIndex x 8 k = b.toNat) ∧
    (2 * k + 1 < x.length → packIndex x 16 k = ofBe ((x.drop (2 * k)).take 2)) ∧
    packIndex x 1 k = streamBit x k

/-! ## Streams -/

/-- R105 (with R99, R106): INIT opens the empty stream; UPDATE of a written region m takes a stream of x to a stream of x ‖ m; FINAL of a stream of x
writes SHA256(x). So a stream's digest is that of the concatenation of its updates, whatever their lengths. -/
def Obligations.StreamedDigestIsTheDigestOfTheWhole : Prop :=
  (∀ (s : State) (l : Latched), s.AtCompletion .shaInit l → ∃ t, exec .shaInit s = .next t ∧ t.sha.Streams []) ∧
  (∀ (s : State) (l : Latched) (x m : List Byte), s.AtCompletion .shaUpdate l → s.sha.Streams x →
    m.length = l.slen.toNat → s.spad.Holds l.src.toNat m →
      ∃ t, exec .shaUpdate s = .next t ∧ t.sha.Streams (x ++ m)) ∧
  (∀ (s : State) (l : Latched) (x : List Byte), s.AtCompletion .shaFinal l → s.sha.Streams x →
    ∃ t, exec .shaFinal s = .next t ∧ t.spad.Holds l.dst.toNat (sha256Digest x) ∧ t.sha.h = hashFinal256 x ∧ t.sha.active = false)

/-- R107, R123, R130: the SHA-256 engine state changes only when one of the five hash commands completes, or at reset. -/
def Obligations.OnlyHashCommandsChangeTheEngine : Prop :=
  ∀ s t : State, step s = .next t → t.sha ≠ s.sha →
    (∃ p, s.pending = some p ∧ s.wait = 0 ∧ p.instr ∈ [.shaInit, .shaUpdate, .shaFinal, .sha256, .cksumAppend]) ∨
      ∃ level rest, s.host.script = .resetPin level :: rest

/-! ## The port -/

/-- R52, R56, R58: a misaligned access, a partial write and any scratchpad access while BUSY = 1 get err = 1 and data 0, set BUS_ERR and change
nothing else of the block; no other transaction does. -/
def Obligations.BusErrorsAreExactlyTheBadAccesses : Prop :=
  ∀ (s : State) (off : BitVec 12) (d : Word) (strb : BitVec 4) (e : State),
    e = { s with
          status := { s.status with busErr := true }
          host := { s.host with resp := ⟨0, true⟩, log := s.host.log ++ [.busError] } } →
      ((off.toNat % 4 ≠ 0 ∨ strb ≠ 0b1111 ∨ (0x800 ≤ off.toNat ∧ s.pending ≠ none)) → s.busWrite off d strb = .next e) ∧
      (¬(off.toNat % 4 ≠ 0 ∨ strb ≠ 0b1111 ∨ (0x800 ≤ off.toNat ∧ s.pending ≠ none)) →
        ∀ t, s.busWrite off d strb = .next t →
          t.host.resp = ⟨0, false⟩ ∧ (t.status.busErr = true → s.status.busErr = true)) ∧
      ((off.toNat % 4 ≠ 0 ∨ (0x800 ≤ off.toNat ∧ s.pending ≠ none)) → s.busRead off = e) ∧
      (¬(off.toNat % 4 ≠ 0 ∨ (0x800 ≤ off.toNat ∧ s.pending ≠ none)) →
        (s.busRead off).host.resp.err = false ∧ (s.busRead off).status = s.status)

/-- R53: while idle, a write of word j stores its four bytes least significant first and changes no other byte; a read of word j puts the bytes
together the same way, so a read after a write gives the word written. -/
def Obligations.SpadWordsAreLittleEndian : Prop :=
  ∀ (s : State) (j : Nat), s.pending = none → j < 512 →
    (∀ d : Word, ∃ m : Memory,
      s.busWrite (BitVec.ofNat 12 (0x800 + 4 * j)) d 0b1111 =
        .next { s with spad := m, host := { s.host with resp := ⟨0, false⟩ } } ∧
      (∀ i, i < 4 → m.byte (4 * j + i) = some (d.extractLsb' (8 * i) 8)) ∧
      (∀ a, a < 4 * j ∨ 4 * j + 4 ≤ a → m.byte a = s.spad.byte a) ∧
      (State.busRead { s with spad := m } (BitVec.ofNat 12 (0x800 + 4 * j))).host.resp = ⟨d, false⟩) ∧
    ∀ b0 b1 b2 b3 : Byte, s.spad.Holds (4 * j) [b0, b1, b2, b3] →
      (s.busRead (BitVec.ofNat 12 (0x800 + 4 * j))).host.resp =
        ⟨BitVec.ofNat 32 (b0.toNat + 2 ^ 8 * b1.toNat + 2 ^ 16 * b2.toNat + 2 ^ 24 * b3.toNat), false⟩

/-- R57: while idle, the lane of an unwritten byte reads as a free value, one of its own for every read; the lanes of written bytes are exact. -/
def Obligations.UnwrittenLanesReadAsFreeValues : Prop :=
  ∀ (s : State) (j : Nat), s.pending = none → j < 512 →
    (∀ i, i < 4 → s.spad.byte (4 * j + i) = none →
      (s.busRead (BitVec.ofNat 12 (0x800 + 4 * j))).host.resp.data.extractLsb' (8 * i) 8 = Config.freeByte (s.fresh + i)) ∧
    (∀ i b, i < 4 → s.spad.byte (4 * j + i) = some b →
      (s.busRead (BitVec.ofNat 12 (0x800 + 4 * j))).host.resp.data.extractLsb' (8 * i) 8 = b) ∧
    (s.busRead (BitVec.ofNat 12 (0x800 + 4 * j))).fresh = s.fresh + 4 ∧
    (s.busRead (BitVec.ofNat 12 (0x800 + 4 * j))).spad = s.spad

/-- R30: a STATUS write clears each of DONE, ERR, CMD_OVR and BUS_ERR whose data bit 1 to 4 is 1; every other data bit is ignored, and ERRCODE
stays. -/
def Obligations.StatusWriteClearsTheMarkedBits : Prop :=
  ∀ (s : State) (d : Word),
    s.busWrite 0x00C d 0b1111 = .next
      { s with
        status :=
          { done := if d.getLsbD 1 then false else s.status.done
            err := if d.getLsbD 2 then false else s.status.err
            cmdOvr := if d.getLsbD 3 then false else s.status.cmdOvr
            busErr := if d.getLsbD 4 then false else s.status.busErr }
        host := { s.host with resp := ⟨0, false⟩ } }

/-- R27, R28: a CTRL write stores PACK_TRUNC, IRQ_EN and all of GW at once, BUSY or not, changes nothing else (the latched operands of a running
command least of all), moves the interrupt output with IRQ_EN, and reads back with the reserved bits 0. -/
def Obligations.CtrlWriteStoresItsFields : Prop :=
  ∀ (s : State) (d : Word), ∃ c : Ctrl,
    s.busWrite 0x008 d 0b1111 = .next { s with ctrl := c, host := { s.host with resp := ⟨0, false⟩ } } ∧
    c.packTrunc = d.getLsbD 0 ∧ c.irqEn = d.getLsbD 1 ∧ c.gw.toNat = d.toNat / 256 % 32 ∧
    State.irq { s with ctrl := c } = (d.getLsbD 1 && (s.status.done || s.status.err || s.status.cmdOvr || s.status.busErr)) ∧
    (State.busRead { s with ctrl := c } 0x008).host.resp = ⟨d &&& 0x00001F03, false⟩

/-- R33 to R39, R152: each operand register stores all 32 written bits, BUSY or not, and a write to it changes nothing else; a read returns it. -/
def Obligations.OperandRegistersStoreEveryBit : Prop :=
  ∀ (s : State) (d : Word) (h : HostState), h = { s.host with resp := ⟨0, false⟩ } →
    (s.busWrite 0x018 d 0b1111 = .next { s with args := { s.args with src := d }, host := h } ∧
      (s.busRead 0x018).host.resp = ⟨s.args.src, false⟩) ∧
    (s.busWrite 0x01C d 0b1111 = .next { s with args := { s.args with slen := d }, host := h } ∧
      (s.busRead 0x01C).host.resp = ⟨s.args.slen, false⟩) ∧
    (s.busWrite 0x020 d 0b1111 = .next { s with args := { s.args with src2 := d }, host := h } ∧
      (s.busRead 0x020).host.resp = ⟨s.args.src2, false⟩) ∧
    (s.busWrite 0x024 d 0b1111 = .next { s with args := { s.args with s2len := d }, host := h } ∧
      (s.busRead 0x024).host.resp = ⟨s.args.s2len, false⟩) ∧
    (s.busWrite 0x028 d 0b1111 = .next { s with args := { s.args with dst := d }, host := h } ∧
      (s.busRead 0x028).host.resp = ⟨s.args.dst, false⟩) ∧
    (s.busWrite 0x02C d 0b1111 = .next { s with args := { s.args with dlen := d }, host := h } ∧
      (s.busRead 0x02C).host.resp = ⟨s.args.dlen, false⟩) ∧
    (s.busWrite 0x030 d 0b1111 = .next { s with args := { s.args with iter := d }, host := h } ∧
      (s.busRead 0x030).host.resp = ⟨s.args.iter, false⟩)

/-- R25, R26, R44: an aligned read of a reserved offset returns 0, ID and VERSION read their constants, and an aligned full write to a reserved offset
or to a read-only register is ignored, none of these with a bus error. -/
def Obligations.ReservedAndReadOnlyOffsetsIgnoreWrites : Prop :=
  ∀ (s : State) (off : BitVec 12) (d : Word),
    (off.toNat % 4 = 0 → (0x044 ≤ off.toNat ∧ off.toNat ≤ 0x05C) ∨ (0x080 ≤ off.toNat ∧ off.toNat ≤ 0x7FF) →
      (s.busRead off).host.resp = ⟨0, false⟩ ∧
      s.busWrite off d 0b1111 = .next { s with host := { s.host with resp := ⟨0, false⟩ } }) ∧
    (off ∈ ([0x000, 0x004, 0x014, 0x034, 0x038, 0x03C, 0x040, 0x060, 0x064, 0x068, 0x06C, 0x070, 0x074, 0x078, 0x07C] : List (BitVec 12)) →
      s.busWrite off d 0b1111 = .next { s with host := { s.host with resp := ⟨0, false⟩ } }) ∧
    (s.busRead 0x000).host.resp = ⟨0x4D574731, false⟩ ∧ (s.busRead 0x004).host.resp = ⟨0x00070000, false⟩

/-- R24, R29, R31, R32, R40 to R43: while idle, STATUS, CMD, ERRCODE and the result registers read exactly. -/
def Obligations.IdleRegisterReadsAreExact : Prop :=
  ∀ s : State, s.pending = none →
    (s.busRead 0x00C).host.resp =
      ⟨BitVec.ofNat 32 (2 * s.status.done.toNat + 4 * s.status.err.toNat + 8 * s.status.cmdOvr.toNat + 16 * s.status.busErr.toNat
        + 32 * s.sha.active.toNat), false⟩ ∧
    (s.busRead 0x010).host.resp = ⟨0, false⟩ ∧
    (s.busRead 0x014).host.resp = ⟨s.errcode.code.setWidth 32, false⟩ ∧
    (s.busRead 0x034).host.resp = ⟨s.packCount, false⟩ ∧
    (s.busRead 0x038).host.resp = ⟨s.cksum.setWidth 32, false⟩ ∧
    (s.busRead 0x03C).host.resp = ⟨s.sha.len.setWidth 32, false⟩ ∧
    (s.busRead 0x040).host.resp = ⟨(s.sha.len >>> 32).setWidth 32, false⟩ ∧
    (s.busRead 0x060).host.resp = ⟨s.sha.h.h0, false⟩ ∧ (s.busRead 0x064).host.resp = ⟨s.sha.h.h1, false⟩ ∧
    (s.busRead 0x068).host.resp = ⟨s.sha.h.h2, false⟩ ∧ (s.busRead 0x06C).host.resp = ⟨s.sha.h.h3, false⟩ ∧
    (s.busRead 0x070).host.resp = ⟨s.sha.h.h4, false⟩ ∧ (s.busRead 0x074).host.resp = ⟨s.sha.h.h5, false⟩ ∧
    (s.busRead 0x078).host.resp = ⟨s.sha.h.h6, false⟩ ∧ (s.busRead 0x07C).host.resp = ⟨s.sha.h.h7, false⟩

/-- R155: while BUSY = 1, the result registers and STATUS.SHA_ACTIVE read as free values, a new one at each read; the other STATUS bits, ERRCODE,
CTRL, the ARG registers, ID and VERSION read exactly. -/
def Obligations.BusyReadsOfResultsAreFree : Prop :=
  ∀ (s : State) (p : Pending), s.pending = some p →
    (∀ off ∈ ([0x034, 0x038, 0x03C, 0x040, 0x060, 0x064, 0x068, 0x06C, 0x070, 0x074, 0x078, 0x07C] : List (BitVec 12)),
      (s.busRead off).host.resp = ⟨Config.freeWord s.fresh, false⟩ ∧ (s.busRead off).fresh = s.fresh + 4) ∧
    (s.busRead 0x00C).host.resp =
      ⟨BitVec.ofNat 32 (1 + 2 * s.status.done.toNat + 4 * s.status.err.toNat + 8 * s.status.cmdOvr.toNat + 16 * s.status.busErr.toNat
        + 32 * ((Config.freeWord s.fresh).getLsbD 5).toNat), false⟩ ∧
    (s.busRead 0x00C).fresh = s.fresh + 4 ∧
    (∀ (sha : ShaState) (pc : Word) (ck : Byte) (off : BitVec 12),
      off ∈ ([0x000, 0x004, 0x008, 0x014, 0x018, 0x01C, 0x020, 0x024, 0x028, 0x02C, 0x030] : List (BitVec 12)) →
        (State.busRead { s with pending := none, sha := sha, packCount := pc, cksum := ck } off).host.resp = (s.busRead off).host.resp)

/-- R59: a read changes nothing of the block but BUS_ERR, and that only by a bus error. -/
def Obligations.ReadsLeaveTheBlockAlone : Prop :=
  ∀ (s : State) (off : BitVec 12), ∃ (b : Bool) (h : HostState) (n : Nat),
    s.busRead off = { s with status := { s.status with busErr := b }, host := h, fresh := n } ∧
      (b = true ↔ s.status.busErr = true ∨ h.resp.err = true) ∧ h.script = s.host.script ∧ h.vars = s.host.vars ∧ h.failed = s.host.failed

/-- R51: HC_BASE is a multiple of 4096, the window holds exactly the addresses HC_BASE to HC_BASE + 0xFFF, and an offset is the address's bits
11:0. -/
def Obligations.WindowOffsetIsTheLowTwelveBits : Prop :=
  Config.hcBase % 4096 = 0 ∧
  ∀ addr : Nat,
    (∀ off, windowOffset addr = some off ↔ addr = Config.hcBase + off.toNat) ∧
    (∀ off, windowOffset addr = some off → off.toNat = addr % 4096) ∧
    (windowOffset addr = none ↔ addr < Config.hcBase ∨ Config.hcBase + 0xFFF < addr)

/-! ## The interrupt -/

/-- R135, R136: `irq` is IRQ_EN and any of the four sources; a write of 0x1E to STATUS, a CTRL write with IRQ_EN = 0 and reset each clear it, and an
accepted command leaves it at the level of CMD_OVR and BUS_ERR. -/
def Obligations.InterruptFollowsItsSources : Prop :=
  ∀ s : State,
    (s.irq = true ↔ s.ctrl.irqEn = true ∧
      (s.status.done = true ∨ s.status.err = true ∨ s.status.cmdOvr = true ∨ s.status.busErr = true)) ∧
    (∀ t, s.busWrite 0x00C 0x0000001E 0b1111 = .next t → t.irq = false) ∧
    (∀ d t, d.getLsbD 1 = false → s.busWrite 0x008 d 0b1111 = .next t → t.irq = false) ∧
    (∀ i t, s.pending = none → exec i s = .next t → t.pending ≠ none →
      t.irq = (s.ctrl.irqEn && (s.status.cmdOvr || s.status.busErr))) ∧
    (s.drivePin false).irq = false

/-! ## The engine and the whole machine -/

/-- R158 (weak fairness; log 1): an accepted command, with no reset on the way, completes after the host moves left to it: within `wait + 1`
steps, whatever the host does. -/
def Obligations.PendingCommandCompletes : Prop :=
  ∀ (s : State) (p : Pending), s.Inv → s.pending = some p → s.rstN = true →
    (∀ level, HostOp.resetPin level ∉ s.host.script) →
      ∃ t, Host.Core.run Sys2Proof.core (s.wait + 1) s = .next t ∧ t.pending = none ∧ t.status.done = true

/-- R134: from every state that keeps the invariant, no step is a fault, and a completion step ends with BUSY = 0, DONE = 1, ERR = 0 and no error
code. -/
def Obligations.CompletionNeverFails : Prop :=
  ∀ s : State, s.Inv →
    (∀ r, step s ≠ .fault r) ∧
    ∀ p, s.pending = some p → s.wait = 0 →
      ∃ t, step s = .next t ∧ t.pending = none ∧ t.status.done = true ∧ t.status.err = false ∧ t.errcode = .noError

/-- R76, R152: the completion step depends on the latched operands only: with any other values in the ARG registers and CTRL it does the same and
leaves those values. -/
def Obligations.CompletionReadsOnlyTheLatch : Prop :=
  ∀ (s : State) (p : Pending) (a : Args) (c : Ctrl), s.pending = some p → s.wait = 0 →
    step { s with args := a, ctrl := c } = thenNext (step s) (fun t => { t with args := a, ctrl := c })

/-- R20, and of CTRL R28, R78 and R130: no command writes an operand register or CTRL; a step changes the operand registers only by a host write to one
of them or by reset, and CTRL only by a host write to it or by reset. -/
def Obligations.OnlyTheHostWritesOperandRegisters : Prop :=
  (∀ (i : Instr) (s t : State), exec i s = .next t → t.args = s.args ∧ t.ctrl = s.ctrl) ∧
  ∀ s t : State, step s = .next t →
    (t.args ≠ s.args →
      (∃ off d rest, s.host.script = .write off d 0b1111 :: rest ∧ 0x018 ≤ off.toNat ∧ off.toNat ≤ 0x030) ∨
        ∃ level rest, s.host.script = .resetPin level :: rest) ∧
    (t.ctrl ≠ s.ctrl →
      (∃ d rest, s.host.script = .write 0x008 d 0b1111 :: rest) ∨ ∃ level rest, s.host.script = .resetPin level :: rest)

/-- R56, R68: a scratchpad byte changes only at a completion step, by a host write to the scratchpad while idle, or at reset. -/
def Obligations.ScratchpadChangesOnlyAsTheRulesSay : Prop :=
  ∀ (s t : State) (a : Nat), step s = .next t → t.spad.byte a ≠ s.spad.byte a →
    (∃ p, s.pending = some p ∧ s.wait = 0) ∨
      (s.pending = none ∧ ∃ off d rest, s.host.script = .write off d 0b1111 :: rest ∧ 0x800 ≤ off.toNat) ∨
      ∃ level rest, s.host.script = .resetPin level :: rest

/-- R29: what sets each STATUS bit. BUSY only a CMD write of a command that acceptance takes, DONE only a completion step, ERR only a CMD write while
idle of a word that fails a check of acceptance, CMD_OVR only a CMD write while BUSY = 1, BUS_ERR only a transaction answered err = 1, SHA_ACTIVE
only SHA256.INIT completing. -/
def Obligations.StatusBitsAreSetOnlyByTheirCauses : Prop :=
  ∀ s t : State, step s = .next t →
    (s.pending = none → t.pending ≠ none →
      ∃ w rest i, s.host.script = .write 0x010 w 0b1111 :: rest ∧ decode w = .ok i ∧
        rejection i ⟨s.args, s.ctrl.gw, s.ctrl.packTrunc⟩ s.sha = none) ∧
    (s.status.done = false → t.status.done = true → ∃ p, s.pending = some p ∧ s.wait = 0) ∧
    (s.status.err = false → t.status.err = true →
      s.pending = none ∧ ∃ w rest, s.host.script = .write 0x010 w 0b1111 :: rest ∧
        ∀ i, decode w = .ok i → rejection i ⟨s.args, s.ctrl.gw, s.ctrl.packTrunc⟩ s.sha ≠ none) ∧
    (s.status.cmdOvr = false → t.status.cmdOvr = true →
      s.pending ≠ none ∧ ∃ w rest, s.host.script = .write 0x010 w 0b1111 :: rest) ∧
    (s.status.busErr = false → t.status.busErr = true → t.host.resp = ⟨0, true⟩) ∧
    (s.sha.active = false → t.sha.active = true → ∃ l, s.pending = some ⟨.shaInit, l⟩ ∧ s.wait = 0)

/-- R162: a host that keeps its duties on its next line is never refused, gets no bus error and has no command dropped: the log grows by rejected
commands only; and a register it reads, STATUS apart, answers as it would with no command pending. -/
def Obligations.DutifulHostMeetsNoBusErrorOrDrop : Prop :=
  ∀ s : State, s.dutiful = true →
    (∀ r, step s ≠ .refused r) ∧
    (∀ t, step s = .next t → t.host.log = s.host.log ∨ ∃ code, t.host.log = s.host.log ++ [.rejected code]) ∧
    ∀ off var rest, s.host.script = .read off var :: rest → off.toNat < 0x800 → off ≠ 0x00C →
      (s.busRead off).host.resp = (State.busRead { s with pending := none } off).host.resp ∧ (s.busRead off).host.resp.err = false

/-- R80: a failed `expect` stops the program and a kept one has no effect; `poll` reads STATUS into variable 0 and is left exactly when BUSY was 0. -/
def Obligations.ExpectAndPollControlTheHost : Prop :=
  ∀ (s : State) (rest : List HostOp),
    (∀ var v, s.pending = none → s.host.script = .expect var v :: rest →
      (cellGet s.host.vars var = some v → step s = .next { s with host := { s.host with script := rest } }) ∧
      (cellGet s.host.vars var ≠ some v → step s = .next { s with host := { s.host with script := [], failed := true } })) ∧
    (s.HostTurn → s.rstN = true → s.host.script = .poll :: rest →
      ∃ t, step s = .next t ∧ t.host.script = (if s.pending = none then rest else .poll :: rest) ∧
        ∃ v, cellGet t.host.vars 0 = some v ∧ v.getLsbD 0 = s.busy ∧ v.getLsbD 1 = s.status.done ∧ v.getLsbD 2 = s.status.err)

/-- R81, row by row. Word k of `spad.put` is a write at 0x800 + OFF + 4k of the little-endian value of group k, the bytes padded with zeros; word k of
`spad.get` is a read at 0x800 + OFF + 4k, and its name is the first N bytes of the words, little-endian (in consecutive variables, log 6); each
command writes its operands to its ARG registers in the tabled order and then its word to CMD; `run X` is X and then `poll`; `clear` writes 0x1E to
STATUS. A mnemonic alone is one CMD write of its word (R80). -/
def Obligations.PseudoInstructionsExpandAsTabled : Prop :=
  (∀ (off : Nat) (bytes : List Byte) (k : Nat), k < (bytes.length + 3) / 4 →
    ((Asm.spadPut off bytes).expand)[k]? =
      some (.write (BitVec.ofNat 12 (0x800 + off + 4 * k))
        (BitVec.ofNat 32 (ofLe (((bytes ++ List.replicate 3 0).drop (4 * k)).take 4))) 0b1111)) ∧
  (∀ (off : Nat) (bytes : List Byte), (Asm.spadPut off bytes).expand.length = (bytes.length + 3) / 4) ∧
  (∀ off n var k : Nat, k < (n + 3) / 4 →
    ((Asm.spadGet off n var).expand)[k]? = some (.read (BitVec.ofNat 12 (0x800 + off + 4 * k)) (var + k))) ∧
  (∀ off n var : Nat, (Asm.spadGet off n var).expand.length = (n + 3) / 4) ∧
  (∀ (vars : List (Nat × Word)) (n var : Nat) (data : Nat → Word), (∀ k, k < (n + 3) / 4 → cellGet vars (var + k) = some (data k)) →
    (spadGetBytes vars n var).length = n ∧
    ∀ j, j < n → (spadGetBytes vars n var)[j]? = some ((data (j / 4)).extractLsb' (8 * (j % 4)) 8)) ∧
  (∀ src len : Word, (Asm.shaUpdate src len).expand =
    [.write 0x018 src 0b1111, .write 0x01C len 0b1111, .write 0x010 0x00000002 0b1111]) ∧
  (∀ dst : Word, (Asm.shaFinal dst).expand = [.write 0x028 dst 0b1111, .write 0x010 0x00000003 0b1111]) ∧
  (∀ dst src len : Word, (Asm.sha256 dst src len).expand =
    [.write 0x018 src 0b1111, .write 0x01C len 0b1111, .write 0x028 dst 0b1111, .write 0x010 0x00000004 0b1111]) ∧
  (∀ src len : Word, (Asm.cksumAppend src len).expand =
    [.write 0x018 src 0b1111, .write 0x01C len 0b1111, .write 0x010 0x00000005 0b1111]) ∧
  (∀ dst src len : Word, (Asm.pack dst src len).expand =
    [.write 0x018 src 0b1111, .write 0x01C len 0b1111, .write 0x028 dst 0b1111, .write 0x010 0x00000006 0b1111]) ∧
  (∀ dst dlen pw pwlen salt saltlen : Word,
    (Asm.pbkdf2 dst dlen pw pwlen salt saltlen).expand =
      [.write 0x018 pw 0b1111, .write 0x01C pwlen 0b1111, .write 0x020 salt 0b1111, .write 0x024 saltlen 0b1111, .write 0x028 dst 0b1111,
        .write 0x02C dlen 0b1111, .write 0x010 0x00000007 0b1111] ∧
    (Asm.pbkdf2M dst dlen pw pwlen salt saltlen).expand =
      [.write 0x018 pw 0b1111, .write 0x01C pwlen 0b1111, .write 0x020 salt 0b1111, .write 0x024 saltlen 0b1111, .write 0x028 dst 0b1111,
        .write 0x02C dlen 0b1111, .write 0x010 0x00000107 0b1111]) ∧
  (∀ x : Asm, (Asm.run x).expand = x.expand ++ [.poll]) ∧
  Asm.clear.expand = [.write 0x00C 0x0000001E 0b1111] ∧
  ∀ i : Instr, (Asm.cmd i).expand = [.write 0x010 (encode i) 0b1111]

/-! ## Reset -/

/-- R147, R148, R149: driving `rst_n` to 0 in the host's turn gives every piece of block state its reset value, abandons a pending command and leaves every
scratchpad byte unwritten, whatever the state was; the release of the pin then leaves the same values. -/
def Obligations.ResetPinGivesTheResetValues : Prop :=
  ∀ (s : State) (rest : List HostOp), s.HostTurn → s.host.script = .resetPin false :: .resetPin true :: rest →
    ∃ t u, step s = .next t ∧ step t = .next u ∧ t.rstN = false ∧ u.rstN = true ∧ u.host.script = rest ∧ t.irq = false ∧ u.irq = false ∧
      ∀ v, v = t ∨ v = u →
        v.ctrl = ⟨false, false, 11⟩ ∧ v.status = ⟨false, false, false, false⟩ ∧ v.errcode = .noError ∧
        v.args = ⟨0, 0, 0, 0, 0, 64, 2048⟩ ∧ v.packCount = 0 ∧ v.cksum = 0 ∧
        v.sha = ⟨false, ⟨0, 0, 0, 0, 0, 0, 0, 0⟩, 0, []⟩ ∧ v.pending = none ∧ ∀ a, v.spad.byte a = none

/-- R24, R147 (V-RS1): the registers as they read right after reset. -/
def Obligations.ResetStateReadsTheTabledValues : Prop :=
  (State.reset.busRead 0x000).host.resp = ⟨0x4D574731, false⟩ ∧ (State.reset.busRead 0x004).host.resp = ⟨0x00070000, false⟩ ∧
  (State.reset.busRead 0x008).host.resp = ⟨0x00000B00, false⟩ ∧ (State.reset.busRead 0x00C).host.resp = ⟨0, false⟩ ∧
  (State.reset.busRead 0x014).host.resp = ⟨0, false⟩ ∧ (State.reset.busRead 0x018).host.resp = ⟨0, false⟩ ∧
  (State.reset.busRead 0x01C).host.resp = ⟨0, false⟩ ∧ (State.reset.busRead 0x020).host.resp = ⟨0, false⟩ ∧
  (State.reset.busRead 0x024).host.resp = ⟨0, false⟩ ∧ (State.reset.busRead 0x028).host.resp = ⟨0, false⟩ ∧
  (State.reset.busRead 0x02C).host.resp = ⟨64, false⟩ ∧ (State.reset.busRead 0x030).host.resp = ⟨2048, false⟩ ∧
  (State.reset.busRead 0x034).host.resp = ⟨0, false⟩ ∧ (State.reset.busRead 0x038).host.resp = ⟨0, false⟩ ∧
  (State.reset.busRead 0x03C).host.resp = ⟨0, false⟩ ∧ (State.reset.busRead 0x040).host.resp = ⟨0, false⟩ ∧
  (∀ off ∈ ([0x060, 0x064, 0x068, 0x06C, 0x070, 0x074, 0x078, 0x07C] : List (BitVec 12)),
    (State.reset.busRead off).host.resp = ⟨0, false⟩) ∧
  State.reset.irq = false ∧ ∀ a, State.reset.spad.byte a = none

/-! ## The invariant -/

/-- The state after reset keeps the invariant. -/
def Obligations.ResetStateKeepsTheInvariant : Prop := State.reset.Inv

/-- Every step keeps the invariant: the scratchpad stays canonical and within its 2048 bytes (R48, R53), the SHA-256 engine keeps R45 and R99, a
pending command keeps passing its checks (R75, R134), DONE and ERR are never both set and ERRCODE agrees with them (R75, R78, R130), and while
`rst_n` = 0 the block has its reset values (R147). -/
def Obligations.StepKeepsTheInvariant : Prop := ∀ s t : State, s.Inv → step s = .next t → t.Inv
end

