-- ==== Sys2Proof/Laws/Bytes.lean ====
section
/-! SUPPORT. Lengths and inverses of the byte-string conversions (R12) and the lengths the hash functions work with. -/

namespace Sys2Proof.Machine

open Sys2Proof

@[simp] theorem le_length (n v : Nat) : (le n v).length = n := by
  induction n generalizing v with
  | zero => rfl
  | succ n ih => simp [le, ih]

@[simp] theorem be_length (n v : Nat) : (be n v).length = n := by simp [be]

@[simp] theorem zeros_length (k : Nat) : (zeros k).length = k := by simp [zeros]

theorem ofLe_le (n v : Nat) : ofLe (le n v) = v % 256 ^ n := by
  induction n generalizing v with
  | zero => simp [le, ofLe, Nat.mod_one]
  | succ n ih =>
    have h : v % 256 ^ (n + 1) = v % 256 + 256 * (v / 256 % 256 ^ n) := by
      rw [Nat.pow_succ', Nat.mod_mul]
    simp [le, ofLe, ih, h]

theorem ofBe_be (n v : Nat) : ofBe (be n v) = v % 256 ^ n := by simp [ofBe, be, ofLe_le]

theorem ofLe_lt (s : List Byte) : ofLe s < 256 ^ s.length := by
  induction s with
  | nil => simp [ofLe]
  | cons b r ih =>
    have hb := b.isLt
    simp only [ofLe, List.length_cons, Nat.pow_succ']
    omega

/-- LE_n inverts LE_n^-1. -/
theorem le_ofLe (s : List Byte) : le s.length (ofLe s) = s := by
  induction s with
  | nil => rfl
  | cons b r ih =>
    have hb := b.isLt
    have h1 : (b.toNat + 256 * ofLe r) / 256 = ofLe r := by omega
    have h2 : BitVec.ofNat 8 (b.toNat + 256 * ofLe r) = b := by
      apply BitVec.eq_of_toNat_eq
      simp only [BitVec.toNat_ofNat]
      omega
    simp [le, ofLe, h1, h2, ih]

/-- Byte i of LE_n(v). -/
theorem le_getElem (n v i : Nat) (h : i < (le n v).length) : (le n v)[i] = BitVec.ofNat 8 (v / 256 ^ i) := by
  induction n generalizing v i with
  | zero => simp at h
  | succ n ih =>
    cases i with
    | zero => simp [le]
    | succ i =>
      have h' : i < (le n (v / 256)).length := by simpa using h
      simp only [le, List.getElem_cons_succ]
      rw [ih (v / 256) i h', Nat.div_div_eq_div_mul, Nat.pow_succ']

@[simp] theorem xorBytes_length (s t : List Byte) : (xorBytes s t).length = min s.length t.length := by simp [xorBytes]

@[simp] theorem digest_length {w : Nat} (h : Hash w) : h.digest.length = 8 * (w / 8) := by
  simp [Hash.digest, Hash.words]
  omega

@[simp] theorem sha256Digest_length (m : List Byte) : (sha256Digest m).length = 32 := by simp [sha256Digest]

@[simp] theorem sha512Digest_length (m : List Byte) : (sha512Digest m).length = 64 := by simp [sha512Digest]

@[simp] theorem hmacSha512_length (k m : List Byte) : (hmacSha512 k m).length = 64 := by simp [hmacSha512]

/-! ### Absorbing blocks -/

/-- Absorbing k + n blocks is absorbing k blocks and then n of the rest. -/
theorem absorb_add {w : Nat} (f : Sha2 w) (k n : Nat) (h : Hash w) (p : List Byte) :
    f.absorb (k + n) h p = f.absorb n (f.absorb k h p) (p.drop (2 * w * k)) := by
  induction k generalizing h p with
  | zero => simp [Sha2.absorb]
  | succ k ih =>
    have e : k + 1 + n = (k + n) + 1 := by omega
    rw [e, Sha2.absorb, ih, Sha2.absorb, List.drop_drop]
    congr 2
    ring

/-- Absorbing looks only at the bytes of the blocks it absorbs. -/
theorem absorb_append {w : Nat} (f : Sha2 w) (k : Nat) (h : Hash w) (p q : List Byte) (hk : 2 * w * k ≤ p.length) :
    f.absorb k h (p ++ q) = f.absorb k h p := by
  induction k generalizing h p with
  | zero => simp [Sha2.absorb]
  | succ k ih =>
    have h1 : 2 * w ≤ p.length := by nlinarith
    rw [Sha2.absorb, Sha2.absorb, List.take_append_of_le_length h1, List.drop_append_of_le_length h1]
    exact ih _ _ (by simp only [List.length_drop]; rw [Nat.mul_succ] at hk; omega)

end Sys2Proof.Machine
end

