-- ==== Sys2Proof/Laws/Checks.lean ====
section
/-! SUPPORT. The acceptance checks: how a row decides, and that the rows the machine runs are the table of R79 in plain arithmetic. -/

namespace Sys2Proof.Machine

open Sys2Proof

@[simp] theorem firstError_nil : firstError [] = none := rfl

@[simp] theorem firstError_cons (b : Bool) (code : ErrCode) (rest : List (Bool × ErrCode)) :
    firstError ((b, code) :: rest) = if b then some code else firstError rest := rfl

theorem firstError_cons_eq_none (b : Bool) (code : ErrCode) (rest : List (Bool × ErrCode)) :
    firstError ((b, code) :: rest) = none ↔ b = false ∧ firstError rest = none := by cases b <;> simp

/-- The error reported is that of a check of the row that holds. -/
theorem mem_of_firstError {row : List (Bool × ErrCode)} {code : ErrCode} (h : firstError row = some code) : (true, code) ∈ row := by
  induction row with
  | nil => cases h
  | cons c r ih =>
    obtain ⟨b, e⟩ := c
    cases b
    · exact List.mem_cons_of_mem _ (ih h)
    · simp only [firstError, if_true, Option.some.injEq] at h
      exact h ▸ List.mem_cons_self

/-- No check of R79 has the code NONE. -/
theorem firstError_ne_noError {i : Instr} {l : Latched} {sha : ShaState} {code : ErrCode}
    (h : firstError (checkRow i l sha) = some code) : code ≠ .noError := by
  rintro rfl
  have := mem_of_firstError h
  cases i <;> simp [checkRow, rowNop, rowShaInit, rowShaUpdate, rowShaFinal, rowSha256, rowCksumAppend, rowPack, rowPbkdf2] at this

theorem not_inRange (a n : Nat) : (!inRange a n) = decide (2048 < a + n) := by
  by_cases h : a + n ≤ 2048
  · simp [inRange, Config.spadSize, h]
  · simp [inRange, Config.spadSize, h, Nat.lt_of_not_le h]

/-- A DLEN that is not 0 is not empty. -/
theorem dlen_pos {d : Word} (h : d ≠ 0) : 0 < d.toNat :=
  Nat.pos_of_ne_zero fun e => h (BitVec.eq_of_toNat_eq (by simpa using e))

/-- The checks the machine runs decide as the table of R79 does. -/
theorem firstError_checkRow (i : Instr) (l : Latched) (sha : ShaState) : firstError (checkRow i l sha) = rejection i l sha := by
  cases i with
  | nop => rfl
  | shaInit => rfl
  | shaUpdate =>
    simp only [checkRow, rowShaUpdate, firstError, rejection, not_inRange, Config.shaMaxLen]
    cases sha.active <;> simp
  | shaFinal =>
    simp only [checkRow, rowShaFinal, firstError, rejection, not_inRange]
    cases sha.active <;> simp
  | sha256 =>
    simp only [checkRow, rowSha256, firstError, rejection, not_inRange, overlaps]
    simp [-Nat.reduceLeDiff]
  | cksumAppend =>
    simp only [checkRow, rowCksumAppend, firstError, rejection, not_inRange]
    simp only [decide_eq_true_eq, gt_iff_lt, Nat.add_assoc]
  | pack =>
    have e : (1 ≤ l.gw.toNat ∧ l.gw.toNat ≤ 16) ↔ ¬(l.gw.toNat = 0 ∨ l.gw.toNat > 16) := by omega
    simp only [checkRow, rowPack, firstError, rejection, not_inRange, overlaps, groupCount, e]
    simp
  | pbkdf2 | pbkdf2M =>
    simp only [checkRow, rowPbkdf2, firstError, rejection, not_inRange, overlaps]
    by_cases hd : l.dlen = 0
    · simp [hd]
    · simp [dlen_pos hd]

end Sys2Proof.Machine
end

