-- ==== Sys2Proof/Laws/Memory.lean ====
section
/-! SUPPORT. Laws of the cells and of the scratchpad: a read after a write, what a write leaves alone, and that every operation keeps the
canonical form. -/

namespace Sys2Proof.Machine

open Sys2Proof

/-! ### Cells -/

theorem cellGet_cellSet {α : Type} (m : List (Nat × α)) (a b : Nat) (x : α) :
    cellGet (cellSet m a x) b = if b = a then some x else cellGet m b := by
  induction m with
  | nil => simp [cellSet, cellGet]
  | cons c r ih =>
    obtain ⟨k, v⟩ := c
    simp only [cellSet]
    split
    · simp [cellGet]
    · split
      · subst_vars
        simp only [cellGet]
        split <;> simp_all
      · rename_i h1 h2
        simp only [cellGet, ih]
        by_cases hb : b = k
        · have : ¬k = a := fun e => h2 e.symm
          simp [hb, this]
        · simp [hb]

@[simp] theorem cellGet_cellSet_same {α : Type} (m : List (Nat × α)) (a : Nat) (x : α) :
    cellGet (cellSet m a x) a = some x := by simp [cellGet_cellSet]

theorem cellGet_cellSet_other {α : Type} (m : List (Nat × α)) {a b : Nat} (x : α) (h : b ≠ a) :
    cellGet (cellSet m a x) b = cellGet m b := by simp [cellGet_cellSet, h]

theorem mem_cellSet {α : Type} {m : List (Nat × α)} {a : Nat} {x : α} {c : Nat × α} (h : c ∈ cellSet m a x) :
    c = (a, x) ∨ c ∈ m := by
  induction m with
  | nil => simpa [cellSet] using h
  | cons d r ih =>
    obtain ⟨k, v⟩ := d
    simp only [cellSet] at h
    split at h
    · simpa using h
    · split at h
      · rcases List.mem_cons.mp h with h | h
        · exact .inl h
        · exact .inr (List.mem_cons_of_mem _ h)
      · rcases List.mem_cons.mp h with h | h
        · exact .inr (h ▸ List.mem_cons_self)
        · exact (ih h).imp id (List.mem_cons_of_mem _)

theorem cellSet_sorted {α : Type} {m : List (Nat × α)} (a : Nat) (x : α) (h : cellsSorted m) :
    cellsSorted (cellSet m a x) := by
  induction m with
  | nil => simp [cellSet, cellsSorted]
  | cons c r ih =>
    obtain ⟨k, v⟩ := c
    obtain ⟨hk, hr⟩ := List.pairwise_cons.mp h
    simp only [cellSet]
    split
    · rename_i hlt
      refine List.pairwise_cons.mpr ⟨fun d hd => ?_, h⟩
      rcases List.mem_cons.mp hd with rfl | hd
      · exact hlt
      · exact Nat.lt_trans hlt (hk d hd)
    · split
      · subst_vars
        exact List.pairwise_cons.mpr ⟨hk, hr⟩
      · refine List.pairwise_cons.mpr ⟨fun d hd => ?_, ih hr⟩
        rcases mem_cellSet hd with rfl | hd
        · simp only
          omega
        · exact hk d hd

/-! ### The scratchpad -/

theorem wf_cellSet {m : Memory} {a : Nat} {x : Byte} (h : m.wf) (ha : a < Config.spadSize) : Memory.wf (cellSet m a x) := by
  refine ⟨cellSet_sorted a x h.1, fun c hc => ?_⟩
  rcases mem_cellSet hc with rfl | hc
  · exact ha
  · exact h.2 c hc

/-- `MemWrite` keeps the canonical form (on a region in range). -/
theorem wf_writeBytes {m : Memory} {a : Nat} {bs : List Byte} (h : m.wf) (ha : a + bs.length ≤ Config.spadSize) :
    (m.writeBytes a bs).wf := by
  induction bs generalizing m a with
  | nil => simpa [Memory.writeBytes] using h
  | cons b r ih =>
    simp only [List.length_cons] at ha
    exact ih (wf_cellSet h (by omega)) (by omega)

/-- Every byte after `MemWrite`: a written one holds its byte of the string, every other one is as before. -/
theorem byte_writeBytes (m : Memory) (a : Nat) (bs : List Byte) (x : Nat) :
    (m.writeBytes a bs).byte x = if a ≤ x ∧ x < a + bs.length then bs[x - a]? else m.byte x := by
  induction bs generalizing m a with
  | nil =>
    have : ¬(a ≤ x ∧ x < a + ([] : List Byte).length) := by simp
    rw [if_neg this, Memory.writeBytes]
  | cons b r ih =>
    rw [Memory.writeBytes, ih, Memory.byte, Memory.byte, cellGet_cellSet]
    simp only [List.length_cons]
    by_cases hx : x = a
    · subst hx
      simp
    · by_cases hr : a + 1 ≤ x ∧ x < a + 1 + r.length
      · have h1 : a ≤ x ∧ x < a + (r.length + 1) := by omega
        have h2 : x - a = (x - (a + 1)) + 1 := by omega
        rw [if_pos hr, if_pos h1, h2, List.getElem?_cons_succ]
      · have h1 : ¬(a ≤ x ∧ x < a + (r.length + 1)) := by omega
        rw [if_neg hr, if_neg h1, if_neg hx]

theorem byte_writeBytes_outside {m : Memory} {a : Nat} {bs : List Byte} {x : Nat} (h : x < a ∨ a + bs.length ≤ x) :
    (m.writeBytes a bs).byte x = m.byte x := by
  rw [byte_writeBytes, if_neg (by omega)]

theorem byte_writeBytes_inside {m : Memory} {a : Nat} {bs : List Byte} {i : Nat} (h : i < bs.length) :
    (m.writeBytes a bs).byte (a + i) = some bs[i] := by
  rw [byte_writeBytes, if_pos (by omega), Nat.add_sub_cancel_left, List.getElem?_eq_getElem h]

@[simp] theorem memRead_length (s : State) (a n : Nat) : (s.memRead a n).length = n := by simp [State.memRead]

theorem written_iff (m : Memory) (a n : Nat) : m.written a n = true ↔ ∀ i < n, (m.byte (a + i)).isSome = true := by
  simp [Memory.written, List.all_eq_true]

end Sys2Proof.Machine
end

