-- ==== Sys2Proof/Laws/State.lean ====
section
/-! SUPPORT. The fields of a state after each named update, one lemma for each field and update, one unfolding each. Cite these
where an effect writes a digest or a key: unifying through `Memory.writeBytes` of one by rfl is slow. -/

namespace Sys2Proof.Machine

open Sys2Proof

section

variable (s : State)

/-! ### State.accepting -/

@[simp] theorem State.accepting_ctrl : (s.accepting).ctrl = s.ctrl := rfl
@[simp] theorem State.accepting_status : (s.accepting).status = { s.status with done := false, err := false } := rfl
@[simp] theorem State.accepting_errcode : (s.accepting).errcode = .noError := rfl
@[simp] theorem State.accepting_args : (s.accepting).args = s.args := rfl
@[simp] theorem State.accepting_packCount : (s.accepting).packCount = s.packCount := rfl
@[simp] theorem State.accepting_cksum : (s.accepting).cksum = s.cksum := rfl
@[simp] theorem State.accepting_sha : (s.accepting).sha = s.sha := rfl
@[simp] theorem State.accepting_pending : (s.accepting).pending = s.pending := rfl
@[simp] theorem State.accepting_spad : (s.accepting).spad = s.spad := rfl
@[simp] theorem State.accepting_rstN : (s.accepting).rstN = s.rstN := rfl
@[simp] theorem State.accepting_host : (s.accepting).host = s.host := rfl
@[simp] theorem State.accepting_wait : (s.accepting).wait = s.wait := rfl
@[simp] theorem State.accepting_fresh : (s.accepting).fresh = s.fresh := rfl

/-! ### State.raiseError -/

@[simp] theorem State.raiseError_ctrl (e : ErrCode) : (s.raiseError e).ctrl = s.ctrl := rfl
@[simp] theorem State.raiseError_status (e : ErrCode) : (s.raiseError e).status = { s.status with err := true } := rfl
@[simp] theorem State.raiseError_errcode (e : ErrCode) : (s.raiseError e).errcode = e := rfl
@[simp] theorem State.raiseError_args (e : ErrCode) : (s.raiseError e).args = s.args := rfl
@[simp] theorem State.raiseError_packCount (e : ErrCode) : (s.raiseError e).packCount = s.packCount := rfl
@[simp] theorem State.raiseError_cksum (e : ErrCode) : (s.raiseError e).cksum = s.cksum := rfl
@[simp] theorem State.raiseError_sha (e : ErrCode) : (s.raiseError e).sha = s.sha := rfl
@[simp] theorem State.raiseError_pending (e : ErrCode) : (s.raiseError e).pending = s.pending := rfl
@[simp] theorem State.raiseError_spad (e : ErrCode) : (s.raiseError e).spad = s.spad := rfl
@[simp] theorem State.raiseError_rstN (e : ErrCode) : (s.raiseError e).rstN = s.rstN := rfl
@[simp] theorem State.raiseError_host (e : ErrCode) : (s.raiseError e).host = { s.host with log := s.host.log ++ [.rejected e] } := rfl
@[simp] theorem State.raiseError_wait (e : ErrCode) : (s.raiseError e).wait = s.wait := rfl
@[simp] theorem State.raiseError_fresh (e : ErrCode) : (s.raiseError e).fresh = s.fresh := rfl

/-! ### State.dropCommand -/

@[simp] theorem State.dropCommand_ctrl : (s.dropCommand).ctrl = s.ctrl := rfl
@[simp] theorem State.dropCommand_status : (s.dropCommand).status = { s.status with cmdOvr := true } := rfl
@[simp] theorem State.dropCommand_errcode : (s.dropCommand).errcode = s.errcode := rfl
@[simp] theorem State.dropCommand_args : (s.dropCommand).args = s.args := rfl
@[simp] theorem State.dropCommand_packCount : (s.dropCommand).packCount = s.packCount := rfl
@[simp] theorem State.dropCommand_cksum : (s.dropCommand).cksum = s.cksum := rfl
@[simp] theorem State.dropCommand_sha : (s.dropCommand).sha = s.sha := rfl
@[simp] theorem State.dropCommand_pending : (s.dropCommand).pending = s.pending := rfl
@[simp] theorem State.dropCommand_spad : (s.dropCommand).spad = s.spad := rfl
@[simp] theorem State.dropCommand_rstN : (s.dropCommand).rstN = s.rstN := rfl
@[simp] theorem State.dropCommand_host : (s.dropCommand).host = { s.host with log := s.host.log ++ [.dropped] } := rfl
@[simp] theorem State.dropCommand_wait : (s.dropCommand).wait = s.wait := rfl
@[simp] theorem State.dropCommand_fresh : (s.dropCommand).fresh = s.fresh := rfl

/-! ### State.raiseBusError -/

@[simp] theorem State.raiseBusError_ctrl : (s.raiseBusError).ctrl = s.ctrl := rfl
@[simp] theorem State.raiseBusError_status : (s.raiseBusError).status = { s.status with busErr := true } := rfl
@[simp] theorem State.raiseBusError_errcode : (s.raiseBusError).errcode = s.errcode := rfl
@[simp] theorem State.raiseBusError_args : (s.raiseBusError).args = s.args := rfl
@[simp] theorem State.raiseBusError_packCount : (s.raiseBusError).packCount = s.packCount := rfl
@[simp] theorem State.raiseBusError_cksum : (s.raiseBusError).cksum = s.cksum := rfl
@[simp] theorem State.raiseBusError_sha : (s.raiseBusError).sha = s.sha := rfl
@[simp] theorem State.raiseBusError_pending : (s.raiseBusError).pending = s.pending := rfl
@[simp] theorem State.raiseBusError_spad : (s.raiseBusError).spad = s.spad := rfl
@[simp] theorem State.raiseBusError_rstN : (s.raiseBusError).rstN = s.rstN := rfl
@[simp] theorem State.raiseBusError_host : (s.raiseBusError).host = { s.host with resp := ⟨0, true⟩, log := s.host.log ++ [.busError] } := rfl
@[simp] theorem State.raiseBusError_wait : (s.raiseBusError).wait = s.wait := rfl
@[simp] theorem State.raiseBusError_fresh : (s.raiseBusError).fresh = s.fresh := rfl

/-! ### State.completed -/

@[simp] theorem State.completed_ctrl : (s.completed).ctrl = s.ctrl := rfl
@[simp] theorem State.completed_status : (s.completed).status = { s.status with done := true } := rfl
@[simp] theorem State.completed_errcode : (s.completed).errcode = s.errcode := rfl
@[simp] theorem State.completed_args : (s.completed).args = s.args := rfl
@[simp] theorem State.completed_packCount : (s.completed).packCount = s.packCount := rfl
@[simp] theorem State.completed_cksum : (s.completed).cksum = s.cksum := rfl
@[simp] theorem State.completed_sha : (s.completed).sha = s.sha := rfl
@[simp] theorem State.completed_pending : (s.completed).pending = none := rfl
@[simp] theorem State.completed_spad : (s.completed).spad = s.spad := rfl
@[simp] theorem State.completed_rstN : (s.completed).rstN = s.rstN := rfl
@[simp] theorem State.completed_host : (s.completed).host = s.host := rfl
@[simp] theorem State.completed_wait : (s.completed).wait = s.wait := rfl
@[simp] theorem State.completed_fresh : (s.completed).fresh = s.fresh := rfl

/-! ### State.start -/

@[simp] theorem State.start_ctrl (i : Instr) (l : Latched) : (s.start i l).ctrl = s.ctrl := rfl
@[simp] theorem State.start_status (i : Instr) (l : Latched) : (s.start i l).status = s.status := rfl
@[simp] theorem State.start_errcode (i : Instr) (l : Latched) : (s.start i l).errcode = s.errcode := rfl
@[simp] theorem State.start_args (i : Instr) (l : Latched) : (s.start i l).args = s.args := rfl
@[simp] theorem State.start_packCount (i : Instr) (l : Latched) : (s.start i l).packCount = s.packCount := rfl
@[simp] theorem State.start_cksum (i : Instr) (l : Latched) : (s.start i l).cksum = s.cksum := rfl
@[simp] theorem State.start_sha (i : Instr) (l : Latched) : (s.start i l).sha = s.sha := rfl
@[simp] theorem State.start_pending (i : Instr) (l : Latched) : (s.start i l).pending = some ⟨i, l⟩ := rfl
@[simp] theorem State.start_spad (i : Instr) (l : Latched) : (s.start i l).spad = s.spad := rfl
@[simp] theorem State.start_rstN (i : Instr) (l : Latched) : (s.start i l).rstN = s.rstN := rfl
@[simp] theorem State.start_host (i : Instr) (l : Latched) : (s.start i l).host = s.host := rfl
@[simp] theorem State.start_wait (i : Instr) (l : Latched) : (s.start i l).wait = Config.engineDelay s.fresh := rfl
@[simp] theorem State.start_fresh (i : Instr) (l : Latched) : (s.start i l).fresh = s.fresh + 1 := rfl

/-! ### State.respond -/

@[simp] theorem State.respond_ctrl (d : Word) : (s.respond d).ctrl = s.ctrl := rfl
@[simp] theorem State.respond_status (d : Word) : (s.respond d).status = s.status := rfl
@[simp] theorem State.respond_errcode (d : Word) : (s.respond d).errcode = s.errcode := rfl
@[simp] theorem State.respond_args (d : Word) : (s.respond d).args = s.args := rfl
@[simp] theorem State.respond_packCount (d : Word) : (s.respond d).packCount = s.packCount := rfl
@[simp] theorem State.respond_cksum (d : Word) : (s.respond d).cksum = s.cksum := rfl
@[simp] theorem State.respond_sha (d : Word) : (s.respond d).sha = s.sha := rfl
@[simp] theorem State.respond_pending (d : Word) : (s.respond d).pending = s.pending := rfl
@[simp] theorem State.respond_spad (d : Word) : (s.respond d).spad = s.spad := rfl
@[simp] theorem State.respond_rstN (d : Word) : (s.respond d).rstN = s.rstN := rfl
@[simp] theorem State.respond_host (d : Word) : (s.respond d).host = { s.host with resp := ⟨d, false⟩ } := rfl
@[simp] theorem State.respond_wait (d : Word) : (s.respond d).wait = s.wait := rfl
@[simp] theorem State.respond_fresh (d : Word) : (s.respond d).fresh = s.fresh := rfl

/-! ### State.writeSpad -/

@[simp] theorem State.writeSpad_ctrl (a : Nat) (d : Word) : (s.writeSpad a d).ctrl = s.ctrl := rfl
@[simp] theorem State.writeSpad_status (a : Nat) (d : Word) : (s.writeSpad a d).status = s.status := rfl
@[simp] theorem State.writeSpad_errcode (a : Nat) (d : Word) : (s.writeSpad a d).errcode = s.errcode := rfl
@[simp] theorem State.writeSpad_args (a : Nat) (d : Word) : (s.writeSpad a d).args = s.args := rfl
@[simp] theorem State.writeSpad_packCount (a : Nat) (d : Word) : (s.writeSpad a d).packCount = s.packCount := rfl
@[simp] theorem State.writeSpad_cksum (a : Nat) (d : Word) : (s.writeSpad a d).cksum = s.cksum := rfl
@[simp] theorem State.writeSpad_sha (a : Nat) (d : Word) : (s.writeSpad a d).sha = s.sha := rfl
@[simp] theorem State.writeSpad_pending (a : Nat) (d : Word) : (s.writeSpad a d).pending = s.pending := rfl
@[simp] theorem State.writeSpad_spad (a : Nat) (d : Word) : (s.writeSpad a d).spad = s.spad.writeBytes a (le 4 d.toNat) := rfl
@[simp] theorem State.writeSpad_rstN (a : Nat) (d : Word) : (s.writeSpad a d).rstN = s.rstN := rfl
@[simp] theorem State.writeSpad_host (a : Nat) (d : Word) : (s.writeSpad a d).host = s.host := rfl
@[simp] theorem State.writeSpad_wait (a : Nat) (d : Word) : (s.writeSpad a d).wait = s.wait := rfl
@[simp] theorem State.writeSpad_fresh (a : Nat) (d : Word) : (s.writeSpad a d).fresh = s.fresh := rfl

/-! ### State.setScript -/

@[simp] theorem State.setScript_ctrl (r : List HostOp) : (s.setScript r).ctrl = s.ctrl := rfl
@[simp] theorem State.setScript_status (r : List HostOp) : (s.setScript r).status = s.status := rfl
@[simp] theorem State.setScript_errcode (r : List HostOp) : (s.setScript r).errcode = s.errcode := rfl
@[simp] theorem State.setScript_args (r : List HostOp) : (s.setScript r).args = s.args := rfl
@[simp] theorem State.setScript_packCount (r : List HostOp) : (s.setScript r).packCount = s.packCount := rfl
@[simp] theorem State.setScript_cksum (r : List HostOp) : (s.setScript r).cksum = s.cksum := rfl
@[simp] theorem State.setScript_sha (r : List HostOp) : (s.setScript r).sha = s.sha := rfl
@[simp] theorem State.setScript_pending (r : List HostOp) : (s.setScript r).pending = s.pending := rfl
@[simp] theorem State.setScript_spad (r : List HostOp) : (s.setScript r).spad = s.spad := rfl
@[simp] theorem State.setScript_rstN (r : List HostOp) : (s.setScript r).rstN = s.rstN := rfl
@[simp] theorem State.setScript_host (r : List HostOp) : (s.setScript r).host = { s.host with script := r } := rfl
@[simp] theorem State.setScript_wait (r : List HostOp) : (s.setScript r).wait = s.wait := rfl
@[simp] theorem State.setScript_fresh (r : List HostOp) : (s.setScript r).fresh = s.fresh := rfl

/-! ### State.load -/

@[simp] theorem State.load_ctrl (p : List Asm) : (s.load p).ctrl = s.ctrl := rfl
@[simp] theorem State.load_status (p : List Asm) : (s.load p).status = s.status := rfl
@[simp] theorem State.load_errcode (p : List Asm) : (s.load p).errcode = s.errcode := rfl
@[simp] theorem State.load_args (p : List Asm) : (s.load p).args = s.args := rfl
@[simp] theorem State.load_packCount (p : List Asm) : (s.load p).packCount = s.packCount := rfl
@[simp] theorem State.load_cksum (p : List Asm) : (s.load p).cksum = s.cksum := rfl
@[simp] theorem State.load_sha (p : List Asm) : (s.load p).sha = s.sha := rfl
@[simp] theorem State.load_pending (p : List Asm) : (s.load p).pending = s.pending := rfl
@[simp] theorem State.load_spad (p : List Asm) : (s.load p).spad = s.spad := rfl
@[simp] theorem State.load_rstN (p : List Asm) : (s.load p).rstN = s.rstN := rfl
@[simp] theorem State.load_wait (p : List Asm) : (s.load p).wait = s.wait := rfl
@[simp] theorem State.load_fresh (p : List Asm) : (s.load p).fresh = s.fresh := rfl
@[simp] theorem State.load_host (p : List Asm) : (s.load p).host = { State.reset.host with script := p.flatMap Asm.expand } := rfl

/-! ### State.setVar -/

@[simp] theorem State.setVar_ctrl (v : Nat) (d : Word) : (s.setVar v d).ctrl = s.ctrl := rfl
@[simp] theorem State.setVar_status (v : Nat) (d : Word) : (s.setVar v d).status = s.status := rfl
@[simp] theorem State.setVar_errcode (v : Nat) (d : Word) : (s.setVar v d).errcode = s.errcode := rfl
@[simp] theorem State.setVar_args (v : Nat) (d : Word) : (s.setVar v d).args = s.args := rfl
@[simp] theorem State.setVar_packCount (v : Nat) (d : Word) : (s.setVar v d).packCount = s.packCount := rfl
@[simp] theorem State.setVar_cksum (v : Nat) (d : Word) : (s.setVar v d).cksum = s.cksum := rfl
@[simp] theorem State.setVar_sha (v : Nat) (d : Word) : (s.setVar v d).sha = s.sha := rfl
@[simp] theorem State.setVar_pending (v : Nat) (d : Word) : (s.setVar v d).pending = s.pending := rfl
@[simp] theorem State.setVar_spad (v : Nat) (d : Word) : (s.setVar v d).spad = s.spad := rfl
@[simp] theorem State.setVar_rstN (v : Nat) (d : Word) : (s.setVar v d).rstN = s.rstN := rfl
@[simp] theorem State.setVar_host (v : Nat) (d : Word) : (s.setVar v d).host = { s.host with vars := cellSet s.host.vars v d } := rfl
@[simp] theorem State.setVar_wait (v : Nat) (d : Word) : (s.setVar v d).wait = s.wait := rfl
@[simp] theorem State.setVar_fresh (v : Nat) (d : Word) : (s.setVar v d).fresh = s.fresh := rfl

/-! ### State.failExpect -/

@[simp] theorem State.failExpect_ctrl : (s.failExpect).ctrl = s.ctrl := rfl
@[simp] theorem State.failExpect_status : (s.failExpect).status = s.status := rfl
@[simp] theorem State.failExpect_errcode : (s.failExpect).errcode = s.errcode := rfl
@[simp] theorem State.failExpect_args : (s.failExpect).args = s.args := rfl
@[simp] theorem State.failExpect_packCount : (s.failExpect).packCount = s.packCount := rfl
@[simp] theorem State.failExpect_cksum : (s.failExpect).cksum = s.cksum := rfl
@[simp] theorem State.failExpect_sha : (s.failExpect).sha = s.sha := rfl
@[simp] theorem State.failExpect_pending : (s.failExpect).pending = s.pending := rfl
@[simp] theorem State.failExpect_spad : (s.failExpect).spad = s.spad := rfl
@[simp] theorem State.failExpect_rstN : (s.failExpect).rstN = s.rstN := rfl
@[simp] theorem State.failExpect_host : (s.failExpect).host = { s.host with script := [], failed := true } := rfl
@[simp] theorem State.failExpect_wait : (s.failExpect).wait = s.wait := rfl
@[simp] theorem State.failExpect_fresh : (s.failExpect).fresh = s.fresh := rfl

/-! ### State.tick -/

@[simp] theorem State.tick_ctrl : (s.tick).ctrl = s.ctrl := rfl
@[simp] theorem State.tick_status : (s.tick).status = s.status := rfl
@[simp] theorem State.tick_errcode : (s.tick).errcode = s.errcode := rfl
@[simp] theorem State.tick_args : (s.tick).args = s.args := rfl
@[simp] theorem State.tick_packCount : (s.tick).packCount = s.packCount := rfl
@[simp] theorem State.tick_cksum : (s.tick).cksum = s.cksum := rfl
@[simp] theorem State.tick_sha : (s.tick).sha = s.sha := rfl
@[simp] theorem State.tick_pending : (s.tick).pending = s.pending := rfl
@[simp] theorem State.tick_spad : (s.tick).spad = s.spad := rfl
@[simp] theorem State.tick_rstN : (s.tick).rstN = s.rstN := rfl
@[simp] theorem State.tick_host : (s.tick).host = s.host := rfl
@[simp] theorem State.tick_wait : (s.tick).wait = s.wait - 1 := rfl
@[simp] theorem State.tick_fresh : (s.tick).fresh = s.fresh := rfl

/-! ### State.resetBlock -/

@[simp] theorem State.resetBlock_ctrl : s.resetBlock.ctrl = State.reset.ctrl := rfl
@[simp] theorem State.resetBlock_status : s.resetBlock.status = State.reset.status := rfl
@[simp] theorem State.resetBlock_errcode : s.resetBlock.errcode = State.reset.errcode := rfl
@[simp] theorem State.resetBlock_args : s.resetBlock.args = State.reset.args := rfl
@[simp] theorem State.resetBlock_packCount : s.resetBlock.packCount = State.reset.packCount := rfl
@[simp] theorem State.resetBlock_cksum : s.resetBlock.cksum = State.reset.cksum := rfl
@[simp] theorem State.resetBlock_sha : s.resetBlock.sha = State.reset.sha := rfl
@[simp] theorem State.resetBlock_pending : s.resetBlock.pending = State.reset.pending := rfl
@[simp] theorem State.resetBlock_spad : s.resetBlock.spad = State.reset.spad := rfl
@[simp] theorem State.resetBlock_rstN : s.resetBlock.rstN = s.rstN := rfl
@[simp] theorem State.resetBlock_host : s.resetBlock.host = s.host := rfl
@[simp] theorem State.resetBlock_wait : s.resetBlock.wait = State.reset.wait := rfl
@[simp] theorem State.resetBlock_fresh : s.resetBlock.fresh = s.fresh := rfl

/-! ### The completion effects: what each leaves alone -/

@[simp] theorem effectNop_ctrl (l : Latched) : (effectNop l s).ctrl = s.ctrl := rfl
@[simp] theorem effectNop_status (l : Latched) : (effectNop l s).status = s.status := rfl
@[simp] theorem effectNop_errcode (l : Latched) : (effectNop l s).errcode = s.errcode := rfl
@[simp] theorem effectNop_args (l : Latched) : (effectNop l s).args = s.args := rfl
@[simp] theorem effectNop_packCount (l : Latched) : (effectNop l s).packCount = s.packCount := rfl
@[simp] theorem effectNop_cksum (l : Latched) : (effectNop l s).cksum = s.cksum := rfl
@[simp] theorem effectNop_sha (l : Latched) : (effectNop l s).sha = s.sha := rfl
@[simp] theorem effectNop_pending (l : Latched) : (effectNop l s).pending = s.pending := rfl
@[simp] theorem effectNop_spad (l : Latched) : (effectNop l s).spad = s.spad := rfl
@[simp] theorem effectNop_rstN (l : Latched) : (effectNop l s).rstN = s.rstN := rfl
@[simp] theorem effectNop_host (l : Latched) : (effectNop l s).host = s.host := rfl
@[simp] theorem effectNop_wait (l : Latched) : (effectNop l s).wait = s.wait := rfl
@[simp] theorem effectNop_fresh (l : Latched) : (effectNop l s).fresh = s.fresh := rfl

@[simp] theorem effectShaInit_ctrl (l : Latched) : (effectShaInit l s).ctrl = s.ctrl := rfl
@[simp] theorem effectShaInit_status (l : Latched) : (effectShaInit l s).status = s.status := rfl
@[simp] theorem effectShaInit_errcode (l : Latched) : (effectShaInit l s).errcode = s.errcode := rfl
@[simp] theorem effectShaInit_args (l : Latched) : (effectShaInit l s).args = s.args := rfl
@[simp] theorem effectShaInit_packCount (l : Latched) : (effectShaInit l s).packCount = s.packCount := rfl
@[simp] theorem effectShaInit_cksum (l : Latched) : (effectShaInit l s).cksum = s.cksum := rfl
@[simp] theorem effectShaInit_pending (l : Latched) : (effectShaInit l s).pending = s.pending := rfl
@[simp] theorem effectShaInit_spad (l : Latched) : (effectShaInit l s).spad = s.spad := rfl
@[simp] theorem effectShaInit_rstN (l : Latched) : (effectShaInit l s).rstN = s.rstN := rfl
@[simp] theorem effectShaInit_host (l : Latched) : (effectShaInit l s).host = s.host := rfl
@[simp] theorem effectShaInit_wait (l : Latched) : (effectShaInit l s).wait = s.wait := rfl
@[simp] theorem effectShaInit_fresh (l : Latched) : (effectShaInit l s).fresh = s.fresh := rfl
@[simp] theorem effectShaInit_sha (l : Latched) : (effectShaInit l s).sha = { active := true, h := iv256, len := 0, buf := [] } := by rw [effectShaInit]

@[simp] theorem effectShaUpdate_ctrl (l : Latched) : (effectShaUpdate l s).ctrl = s.ctrl := rfl
@[simp] theorem effectShaUpdate_status (l : Latched) : (effectShaUpdate l s).status = s.status := rfl
@[simp] theorem effectShaUpdate_errcode (l : Latched) : (effectShaUpdate l s).errcode = s.errcode := rfl
@[simp] theorem effectShaUpdate_args (l : Latched) : (effectShaUpdate l s).args = s.args := rfl
@[simp] theorem effectShaUpdate_packCount (l : Latched) : (effectShaUpdate l s).packCount = s.packCount := rfl
@[simp] theorem effectShaUpdate_cksum (l : Latched) : (effectShaUpdate l s).cksum = s.cksum := rfl
theorem effectShaUpdate_sha (l : Latched) :
    (effectShaUpdate l s).sha =
      { active := s.sha.active
        h :=
          if s.spad.written l.src.toNat l.slen.toNat || (s.updateText l).length / 64 == 0 then
            absorb256 ((s.updateText l).length / 64) s.sha.h (s.updateText l)
          else s.freeHash
        len := s.sha.len + l.slen.setWidth 64
        buf := (s.updateText l).drop (64 * ((s.updateText l).length / 64)) } := by rw [effectShaUpdate]
@[simp] theorem effectShaUpdate_pending (l : Latched) : (effectShaUpdate l s).pending = s.pending := rfl
@[simp] theorem effectShaUpdate_spad (l : Latched) : (effectShaUpdate l s).spad = s.spad := rfl
@[simp] theorem effectShaUpdate_rstN (l : Latched) : (effectShaUpdate l s).rstN = s.rstN := rfl
@[simp] theorem effectShaUpdate_host (l : Latched) : (effectShaUpdate l s).host = s.host := rfl
@[simp] theorem effectShaUpdate_wait (l : Latched) : (effectShaUpdate l s).wait = s.wait := rfl
@[simp] theorem effectShaUpdate_fresh (l : Latched) : (effectShaUpdate l s).fresh = s.freshAfter (s.spad.written l.src.toNat l.slen.toNat) (l.slen.toNat + 8) := by rw [effectShaUpdate]

@[simp] theorem effectShaFinal_ctrl (l : Latched) : (effectShaFinal l s).ctrl = s.ctrl := rfl
@[simp] theorem effectShaFinal_status (l : Latched) : (effectShaFinal l s).status = s.status := rfl
@[simp] theorem effectShaFinal_errcode (l : Latched) : (effectShaFinal l s).errcode = s.errcode := rfl
@[simp] theorem effectShaFinal_args (l : Latched) : (effectShaFinal l s).args = s.args := rfl
@[simp] theorem effectShaFinal_packCount (l : Latched) : (effectShaFinal l s).packCount = s.packCount := rfl
@[simp] theorem effectShaFinal_cksum (l : Latched) : (effectShaFinal l s).cksum = s.cksum := rfl
@[simp] theorem effectShaFinal_pending (l : Latched) : (effectShaFinal l s).pending = s.pending := rfl
@[simp] theorem effectShaFinal_rstN (l : Latched) : (effectShaFinal l s).rstN = s.rstN := rfl
@[simp] theorem effectShaFinal_host (l : Latched) : (effectShaFinal l s).host = s.host := rfl
@[simp] theorem effectShaFinal_wait (l : Latched) : (effectShaFinal l s).wait = s.wait := rfl
@[simp] theorem effectShaFinal_fresh (l : Latched) : (effectShaFinal l s).fresh = s.fresh := rfl
@[simp] theorem effectShaFinal_sha (l : Latched) : (effectShaFinal l s).sha = shaClosed s.sha.finalHash s.sha.len := by rw [effectShaFinal]
@[simp] theorem effectShaFinal_spad (l : Latched) : (effectShaFinal l s).spad = s.spad.writeBytes l.dst.toNat s.sha.finalHash.digest := by rw [effectShaFinal]

@[simp] theorem effectSha256_ctrl (l : Latched) : (effectSha256 l s).ctrl = s.ctrl := rfl
@[simp] theorem effectSha256_status (l : Latched) : (effectSha256 l s).status = s.status := rfl
@[simp] theorem effectSha256_errcode (l : Latched) : (effectSha256 l s).errcode = s.errcode := rfl
@[simp] theorem effectSha256_args (l : Latched) : (effectSha256 l s).args = s.args := rfl
@[simp] theorem effectSha256_packCount (l : Latched) : (effectSha256 l s).packCount = s.packCount := rfl
@[simp] theorem effectSha256_cksum (l : Latched) : (effectSha256 l s).cksum = s.cksum := rfl
@[simp] theorem effectSha256_pending (l : Latched) : (effectSha256 l s).pending = s.pending := rfl
@[simp] theorem effectSha256_rstN (l : Latched) : (effectSha256 l s).rstN = s.rstN := rfl
@[simp] theorem effectSha256_host (l : Latched) : (effectSha256 l s).host = s.host := rfl
@[simp] theorem effectSha256_wait (l : Latched) : (effectSha256 l s).wait = s.wait := rfl
@[simp] theorem effectSha256_sha (l : Latched) : (effectSha256 l s).sha = shaClosed (s.hashRegion l.src.toNat l.slen.toNat) (l.slen.setWidth 64) := by rw [effectSha256]
@[simp] theorem effectSha256_fresh (l : Latched) : (effectSha256 l s).fresh = s.freshAfter (s.spad.written l.src.toNat l.slen.toNat) (l.slen.toNat + 8) := by rw [effectSha256]
@[simp] theorem effectSha256_spad (l : Latched) : (effectSha256 l s).spad = s.spad.writeBytes l.dst.toNat (s.hashRegion l.src.toNat l.slen.toNat).digest := by rw [effectSha256]

@[simp] theorem effectCksumAppend_ctrl (l : Latched) : (effectCksumAppend l s).ctrl = s.ctrl := rfl
@[simp] theorem effectCksumAppend_status (l : Latched) : (effectCksumAppend l s).status = s.status := rfl
@[simp] theorem effectCksumAppend_errcode (l : Latched) : (effectCksumAppend l s).errcode = s.errcode := rfl
@[simp] theorem effectCksumAppend_args (l : Latched) : (effectCksumAppend l s).args = s.args := rfl
@[simp] theorem effectCksumAppend_packCount (l : Latched) : (effectCksumAppend l s).packCount = s.packCount := rfl
@[simp] theorem effectCksumAppend_pending (l : Latched) : (effectCksumAppend l s).pending = s.pending := rfl
@[simp] theorem effectCksumAppend_rstN (l : Latched) : (effectCksumAppend l s).rstN = s.rstN := rfl
@[simp] theorem effectCksumAppend_host (l : Latched) : (effectCksumAppend l s).host = s.host := rfl
@[simp] theorem effectCksumAppend_wait (l : Latched) : (effectCksumAppend l s).wait = s.wait := rfl
@[simp] theorem effectCksumAppend_sha (l : Latched) : (effectCksumAppend l s).sha = shaClosed (s.hashRegion l.src.toNat l.slen.toNat) (l.slen.setWidth 64) := by rw [effectCksumAppend]
@[simp] theorem effectCksumAppend_fresh (l : Latched) : (effectCksumAppend l s).fresh = s.freshAfter (s.spad.written l.src.toNat l.slen.toNat) (l.slen.toNat + 8) := by rw [effectCksumAppend]
@[simp] theorem effectCksumAppend_spad (l : Latched) : (effectCksumAppend l s).spad = s.spad.writeBytes (l.src.toNat + l.slen.toNat) [(s.hashRegion l.src.toNat l.slen.toNat).checksum] := by rw [effectCksumAppend]
@[simp] theorem effectCksumAppend_cksum (l : Latched) : (effectCksumAppend l s).cksum = (s.hashRegion l.src.toNat l.slen.toNat).checksum := by rw [effectCksumAppend]

@[simp] theorem effectPack_ctrl (l : Latched) : (effectPack l s).ctrl = s.ctrl := rfl
@[simp] theorem effectPack_status (l : Latched) : (effectPack l s).status = s.status := rfl
@[simp] theorem effectPack_errcode (l : Latched) : (effectPack l s).errcode = s.errcode := rfl
@[simp] theorem effectPack_args (l : Latched) : (effectPack l s).args = s.args := rfl
@[simp] theorem effectPack_cksum (l : Latched) : (effectPack l s).cksum = s.cksum := rfl
@[simp] theorem effectPack_sha (l : Latched) : (effectPack l s).sha = s.sha := rfl
@[simp] theorem effectPack_pending (l : Latched) : (effectPack l s).pending = s.pending := rfl
@[simp] theorem effectPack_rstN (l : Latched) : (effectPack l s).rstN = s.rstN := rfl
@[simp] theorem effectPack_host (l : Latched) : (effectPack l s).host = s.host := rfl
@[simp] theorem effectPack_wait (l : Latched) : (effectPack l s).wait = s.wait := rfl
@[simp] theorem effectPack_spad (l : Latched) : (effectPack l s).spad = s.spad.writeBytes l.dst.toNat (s.packOutput l) := by rw [effectPack]
@[simp] theorem effectPack_packCount (l : Latched) : (effectPack l s).packCount = BitVec.ofNat 32 (groupCount l) := by rw [effectPack]
@[simp] theorem effectPack_fresh (l : Latched) : (effectPack l s).fresh = s.freshAfter (s.spad.written l.src.toNat l.slen.toNat) (2 * groupCount l) := by rw [effectPack]

@[simp] theorem effectPbkdf2_ctrl (l : Latched) : (effectPbkdf2 l s).ctrl = s.ctrl := rfl
@[simp] theorem effectPbkdf2_status (l : Latched) : (effectPbkdf2 l s).status = s.status := rfl
@[simp] theorem effectPbkdf2_errcode (l : Latched) : (effectPbkdf2 l s).errcode = s.errcode := rfl
@[simp] theorem effectPbkdf2_args (l : Latched) : (effectPbkdf2 l s).args = s.args := rfl
@[simp] theorem effectPbkdf2_packCount (l : Latched) : (effectPbkdf2 l s).packCount = s.packCount := rfl
@[simp] theorem effectPbkdf2_cksum (l : Latched) : (effectPbkdf2 l s).cksum = s.cksum := rfl
@[simp] theorem effectPbkdf2_sha (l : Latched) : (effectPbkdf2 l s).sha = s.sha := rfl
@[simp] theorem effectPbkdf2_pending (l : Latched) : (effectPbkdf2 l s).pending = s.pending := rfl
@[simp] theorem effectPbkdf2_rstN (l : Latched) : (effectPbkdf2 l s).rstN = s.rstN := rfl
@[simp] theorem effectPbkdf2_host (l : Latched) : (effectPbkdf2 l s).host = s.host := rfl
@[simp] theorem effectPbkdf2_wait (l : Latched) : (effectPbkdf2 l s).wait = s.wait := rfl
@[simp] theorem effectPbkdf2_spad (l : Latched) : (effectPbkdf2 l s).spad = s.spad.writeBytes l.dst.toNat (s.derivedKey l []) := by rw [effectPbkdf2, State.stretchKey]
@[simp] theorem effectPbkdf2_fresh (l : Latched) : (effectPbkdf2 l s).fresh = s.freshAfter (s.kdfKnown l) l.dlen.toNat := by rw [effectPbkdf2, State.stretchKey]

@[simp] theorem effectPbkdf2M_ctrl (l : Latched) : (effectPbkdf2M l s).ctrl = s.ctrl := rfl
@[simp] theorem effectPbkdf2M_status (l : Latched) : (effectPbkdf2M l s).status = s.status := rfl
@[simp] theorem effectPbkdf2M_errcode (l : Latched) : (effectPbkdf2M l s).errcode = s.errcode := rfl
@[simp] theorem effectPbkdf2M_args (l : Latched) : (effectPbkdf2M l s).args = s.args := rfl
@[simp] theorem effectPbkdf2M_packCount (l : Latched) : (effectPbkdf2M l s).packCount = s.packCount := rfl
@[simp] theorem effectPbkdf2M_cksum (l : Latched) : (effectPbkdf2M l s).cksum = s.cksum := rfl
@[simp] theorem effectPbkdf2M_sha (l : Latched) : (effectPbkdf2M l s).sha = s.sha := rfl
@[simp] theorem effectPbkdf2M_pending (l : Latched) : (effectPbkdf2M l s).pending = s.pending := rfl
@[simp] theorem effectPbkdf2M_rstN (l : Latched) : (effectPbkdf2M l s).rstN = s.rstN := rfl
@[simp] theorem effectPbkdf2M_host (l : Latched) : (effectPbkdf2M l s).host = s.host := rfl
@[simp] theorem effectPbkdf2M_wait (l : Latched) : (effectPbkdf2M l s).wait = s.wait := rfl
@[simp] theorem effectPbkdf2M_spad (l : Latched) : (effectPbkdf2M l s).spad = s.spad.writeBytes l.dst.toNat (s.derivedKey l mnemonicPrefix) := by rw [effectPbkdf2M, State.stretchKey]
@[simp] theorem effectPbkdf2M_fresh (l : Latched) : (effectPbkdf2M l s).fresh = s.freshAfter (s.kdfKnown l) l.dlen.toNat := by rw [effectPbkdf2M, State.stretchKey]

end

end Sys2Proof.Machine
end

