-- ==== Sys2Proof/Laws/Ops.lean ====
section
/-! SUPPORT. What the shared operations can do, said once: the two steps of a command, the transactions of the port, and the step of the two
agents. -/

namespace Sys2Proof.Machine

open Sys2Proof

/-! ### Turns -/

theorem busy_iff (s : State) : s.busy = true ↔ ∃ p, s.pending = some p := by
  simp [State.busy, Option.isSome_iff_exists]

@[simp] theorem busy_of_pending {s : State} {p : Pending} (h : s.pending = some p) : s.busy = true := by simp [State.busy, h]

@[simp] theorem busy_of_idle {s : State} (h : s.pending = none) : s.busy = false := by simp [State.busy, h]

theorem idle_iff (s : State) : s.busy = false ↔ s.pending = none := by simp [State.busy]

/-- The effect of each command's completion step (R78). -/
def effectOf : Instr → Latched → State → State
  | .nop => effectNop
  | .shaInit => effectShaInit
  | .shaUpdate => effectShaUpdate
  | .shaFinal => effectShaFinal
  | .sha256 => effectSha256
  | .cksumAppend => effectCksumAppend
  | .pack => effectPack
  | .pbkdf2 => effectPbkdf2
  | .pbkdf2M => effectPbkdf2M

/-- Every arm of exec is the two steps of its own command. -/
theorem exec_eq_command (i : Instr) (s : State) : exec i s = command i (checkRow i) (effectOf i) s := by cases i <;> rfl

/-- In the host's turn exec is the CMD write of the command. -/
theorem exec_hostTurn {s : State} (i : Instr) (h : s.HostTurn) : exec i s = .next (s.issue i (checkRow i)) := by
  rw [exec_eq_command, command]
  split
  · rename_i p hp
    rcases h with h | h
    · simp [h] at hp
    · simp [h]
  · rfl

/-- In the engine's turn exec is the completion step. -/
theorem exec_engineTurn {s : State} {p : Pending} (i : Instr) (hp : s.pending = some p) (hw : s.wait = 0) :
    exec i s = s.complete p.l (checkRow i) (effectOf i) := by
  rw [exec_eq_command, command, hp]
  simp [hw]

/-- A completion step whose operands pass the checks is the effect with BUSY cleared and DONE set. -/
theorem exec_atCompletion {s : State} {i : Instr} {l : Latched} (h : s.AtCompletion i l) :
    exec i s = .next (effectOf i l s).completed := by
  rw [exec_engineTurn i h.1 h.2.1, State.complete, firstError_checkRow, h.2.2]

/-- What a CMD write of a command does: dropped, rejected or accepted (R75, R77, R130). -/
theorem issue_cases (s : State) (i : Instr) (row : CheckRow) :
    (s.busy = true ∧ s.issue i row = s.dropCommand) ∨
      (s.busy = false ∧ ∃ code, firstError (row s.latch s.sha) = some code ∧ s.issue i row = s.accepting.raiseError code) ∨
      (s.busy = false ∧ firstError (row s.latch s.sha) = none ∧ s.issue i row = s.accepting.start i s.latch) := by
  by_cases hb : s.busy = true
  · exact .inl ⟨hb, by simp [State.issue, hb]⟩
  · have hb : s.busy = false := by simpa using hb
    cases h : firstError (row s.latch s.sha) with
    | some code => exact .inr (.inl ⟨hb, code, rfl, by simp [State.issue, hb, h]⟩)
    | none => exact .inr (.inr ⟨hb, rfl, by simp [State.issue, hb, h]⟩)

theorem issueIllegal_cases (s : State) :
    (s.busy = true ∧ s.issueIllegal = s.dropCommand) ∨ (s.busy = false ∧ s.issueIllegal = s.accepting.raiseError .illegal) := by
  cases h : s.busy <;> simp [State.issueIllegal, h]

/-- Everything exec can do. -/
theorem exec_cases (i : Instr) (s : State) :
    (s.HostTurn ∧ exec i s = .next (s.issue i (checkRow i))) ∨
      (∃ p, s.pending = some p ∧ s.wait = 0 ∧ firstError (checkRow i p.l s.sha) = none ∧
        exec i s = .next (effectOf i p.l s).completed) ∨
      (∃ p, s.pending = some p ∧ s.wait = 0 ∧ firstError (checkRow i p.l s.sha) ≠ none ∧
        exec i s = .fault .uncheckedOperands) := by
  by_cases ht : s.HostTurn
  · exact .inl ⟨ht, exec_hostTurn i ht⟩
  · rw [State.HostTurn] at ht
    push Not at ht
    obtain ⟨hp, hw⟩ := ht
    obtain ⟨p, hp⟩ := Option.ne_none_iff_exists'.mp hp
    right
    rw [exec_engineTurn i hp hw, State.complete]
    cases h : firstError (checkRow i p.l s.sha) with
    | none => exact .inl ⟨p, hp, hw, h, rfl⟩
    | some c => exact .inr ⟨p, hp, hw, by simp [h], rfl⟩

/-! ### What no completion effect touches -/

section

variable (i : Instr) (l : Latched) (s : State)

@[simp] theorem effectOf_ctrl : (effectOf i l s).ctrl = s.ctrl := by cases i <;> rfl
@[simp] theorem effectOf_status : (effectOf i l s).status = s.status := by cases i <;> rfl
@[simp] theorem effectOf_errcode : (effectOf i l s).errcode = s.errcode := by cases i <;> rfl
@[simp] theorem effectOf_args : (effectOf i l s).args = s.args := by cases i <;> rfl
@[simp] theorem effectOf_pending : (effectOf i l s).pending = s.pending := by cases i <;> rfl
@[simp] theorem effectOf_rstN : (effectOf i l s).rstN = s.rstN := by cases i <;> rfl
@[simp] theorem effectOf_host : (effectOf i l s).host = s.host := by cases i <;> rfl
@[simp] theorem effectOf_wait : (effectOf i l s).wait = s.wait := by cases i <;> rfl

end

/-- Only SHA256.INIT opens a stream (R29). -/
theorem effectOf_active {i : Instr} {l : Latched} {s : State} (h : (effectOf i l s).sha.active = true) :
    s.sha.active = true ∨ i = .shaInit := by
  cases i <;> first | exact .inr rfl | exact .inl h | simp [effectOf, shaClosed] at h

/-! ### The port -/

/-- What a read can do: a bus error response, or the data with nothing of the block changed. -/
theorem busRead_cases (s : State) (off : BitVec 12) :
    (s.badAccess off = true ∧ s.busRead off = s.raiseBusError) ∨
      (s.badAccess off = false ∧ s.busRead off = { s.respond (s.readData off) with fresh := s.fresh + 4 }) := by
  cases h : s.badAccess off <;> simp [State.busRead, h]

/-- What a write can do: a bus error response, a scratchpad write, or a register write. -/
theorem busWrite_cases (s : State) (off : BitVec 12) (d : Word) (strb : BitVec 4) :
    ((s.badAccess off || strb != 0b1111) = true ∧ s.busWrite off d strb = .next s.raiseBusError) ∨
      ((s.badAccess off || strb != 0b1111) = false ∧ isSpad off = true ∧
        s.busWrite off d strb = .next ((s.respond 0).writeSpad (off.toNat - 0x800) d)) ∨
      ((s.badAccess off || strb != 0b1111) = false ∧ isSpad off = false ∧
        s.busWrite off d strb = (s.respond 0).writeReg d (regAt off.toNat)) := by
  cases h : (s.badAccess off || strb != 0b1111) <;> cases hs : isSpad off <;>
    simp only [State.busWrite, h, hs] <;> simp

/-! ### The step -/

/-- In the host's turn a step is the host's move, with one move less before a pending completion. -/
theorem agentStep_hostTurn {s : State} (h : s.HostTurn) :
    agentStep s = if s.busy then thenNext (hostMove s) State.tick else hostMove s := by
  rw [agentStep]
  cases hp : s.pending with
  | none => simp [State.busy, hp]
  | some p =>
    have hw : s.wait ≠ 0 := by rcases h with h | h <;> simp_all
    simp [State.busy, hp, hw]

/-- In the engine's turn a step is exec of the pending command. -/
theorem agentStep_engineTurn {s : State} {p : Pending} (hp : s.pending = some p) (hw : s.wait = 0) :
    agentStep s = exec p.instr s := by simp [agentStep, hp, hw]

@[simp] theorem thenNext_next (s : State) (f : State → State) : thenNext (.next s) f = .next (f s) := rfl

theorem thenNext_eq_next {o : Host.Outcome State Fault Refusal} {f : State → State} {t : State} (h : thenNext o f = .next t) :
    ∃ u, o = .next u ∧ t = f u := by
  cases o with
  | next u => exact ⟨u, rfl, by simpa [thenNext] using h.symm⟩
  | fault r => cases h
  | refused r => cases h

end Sys2Proof.Machine
end

