-- ==== Sys2Proof/Laws/PerInstr.lean ====
section
/-! SUPPORT. The law stated for each instruction by itself: its fields pass the checks of R73, and its word has exactly those fields (R70). -/

namespace Sys2Proof.Laws.Fields

open Sys2Proof

/-- The instruction is well formed, and the word the encoder makes of it has its fields. -/
def Statement (i : Instr) : Prop := i.wellFormed = true ∧ fieldsOf (encode i) = i.fields

theorem nop : Statement .nop := ⟨by decide, by decide⟩
theorem shaInit : Statement .shaInit := ⟨by decide, by decide⟩
theorem shaUpdate : Statement .shaUpdate := ⟨by decide, by decide⟩
theorem shaFinal : Statement .shaFinal := ⟨by decide, by decide⟩
theorem sha256 : Statement .sha256 := ⟨by decide, by decide⟩
theorem cksumAppend : Statement .cksumAppend := ⟨by decide, by decide⟩
theorem pack : Statement .pack := ⟨by decide, by decide⟩
theorem pbkdf2 : Statement .pbkdf2 := ⟨by decide, by decide⟩
theorem pbkdf2M : Statement .pbkdf2M := ⟨by decide, by decide⟩

end Sys2Proof.Laws.Fields
end

