-- ==== Sys2Proof/Laws/Regions.lean ====
section
/-! SUPPORT. Regions of the scratchpad: what a region that holds a byte string reads as, what the packed indices and the hash blocks are as
byte strings, and that each command's effect keeps the scratchpad canonical. -/

namespace Sys2Proof.Machine

open Sys2Proof

/-- The scratchpad after reset is canonical: nothing is listed. -/
theorem wf_reset : State.reset.spad.wf := by decide

/-! ### A region that holds a byte string -/

theorem written_of_holds {m : Memory} {a : Nat} {x : List Byte} (h : m.Holds a x) : m.written a x.length = true :=
  (written_iff m a x.length).2 fun i hi => by rw [h i hi]; rfl

theorem memRead_of_holds {s : State} {a : Nat} {x : List Byte} (h : s.spad.Holds a x) : s.memRead a x.length = x := by
  refine List.ext_getElem (by simp) fun i _ h2 => ?_
  simp [State.memRead, h i h2]

theorem holds_writeBytes (m : Memory) (a : Nat) (x : List Byte) : (m.writeBytes a x).Holds a x := fun _ h => byte_writeBytes_inside h

/-! ### The output of PACK -/

@[simp] theorem packBytes_length (indices : List Nat) : (packBytes indices).length = 2 * indices.length := by
  induction indices with
  | nil => rfl
  | cons a r ih =>
    simp only [packBytes, List.flatMap_cons, List.length_append, le_length, List.length_cons] at ih ⊢
    omega

/-- Index k stands low byte first at byte 2k (R86). -/
theorem packBytes_getElem? (indices : List Nat) (k : Nat) (h : k < indices.length) :
    (packBytes indices)[2 * k]? = some (BitVec.ofNat 8 indices[k]) ∧
      (packBytes indices)[2 * k + 1]? = some (BitVec.ofNat 8 (indices[k] / 256)) := by
  induction indices generalizing k with
  | nil => simp at h
  | cons a r ih =>
    cases k with
    | zero => simp [packBytes, le]
    | succ k =>
      have e : 2 * (k + 1) = 2 * k + 1 + 1 := by omega
      simpa [packBytes, le, e] using ih k (by simpa using h)

@[simp] theorem packOutput_length (s : State) (l : Latched) : (s.packOutput l).length = 2 * groupCount l := by
  unfold State.packOutput
  split <;> simp [packIndices, State.freeBytes]

/-! ### The output of PBKDF2 -/

theorem pbkdf2Iterate_length (password : List Byte) (n : Nat) {u acc : List Byte} (ha : acc.length = 64) :
    (pbkdf2Iterate password n u acc).length = 64 := by
  induction n generalizing u acc with
  | zero => exact ha
  | succ n ih => exact ih (by simp [ha])

@[simp] theorem pbkdf2Block_length (password salt : List Byte) (c i : Nat) : (pbkdf2Block password salt c i).length = 64 :=
  pbkdf2Iterate_length _ _ (by simp)

/-- n strings of k bytes each, put together. -/
theorem length_flatMap_range (f : Nat → List Byte) (n k : Nat) (h : ∀ i, (f i).length = k) :
    ((List.range n).flatMap f).length = n * k := by
  induction n with
  | zero => simp
  | succ n ih =>
    rw [List.range_succ, List.flatMap_append, List.length_append, ih, Nat.succ_mul]
    simp [h]

@[simp] theorem derivedKey_length (s : State) (l : Latched) (saltPrefix : List Byte) : (s.derivedKey l saltPrefix).length = l.dlen.toNat := by
  unfold State.derivedKey
  split
  · rw [pbkdf2Derive, List.length_take, length_flatMap_range _ _ 64 fun i => pbkdf2Block_length _ _ _ _]
    omega
  · simp [State.freeBytes]

/-! ### The canonical form -/

/-- Accepted operands: the effect keeps the scratchpad canonical (R55). -/
theorem wf_effectOf {i : Instr} {l : Latched} {s : State} (h : s.spad.wf) (hc : firstError (checkRow i l s.sha) = none) :
    (effectOf i l s).spad.wf := by
  cases i <;>
    simp only [checkRow, rowSha256, rowShaFinal, rowCksumAppend, rowPack, rowPbkdf2, firstError_cons_eq_none, inRange, Bool.not_eq_false',
      decide_eq_true_eq] at hc <;>
    simp only [effectOf, effectNop_spad, effectShaInit_spad, effectShaUpdate_spad, effectShaFinal_spad, effectSha256_spad,
      effectCksumAppend_spad, effectPack_spad, effectPbkdf2, effectPbkdf2M, State.stretchKey] <;>
    first
    | with_reducible exact h
    | exact wf_writeBytes h (by simp; omega)

end Sys2Proof.Machine
end

