-- ==== Sys2Proof/Laws/Step.lean ====
section
/-! SUPPORT. What one step of the two agents can do, said once by inversion: the completion step, or one line of the host. -/

namespace Sys2Proof.Machine

open Sys2Proof

/-! ### Offsets -/

theorem isSpad_iff (off : BitVec 12) : isSpad off = true ↔ 0x800 ≤ off.toNat := by simp [isSpad]

theorem badAccess_iff (s : State) (off : BitVec 12) :
    s.badAccess off = true ↔ off.toNat % 4 ≠ 0 ∨ (0x800 ≤ off.toNat ∧ s.pending ≠ none) := by
  simp only [State.badAccess, Bool.or_eq_true, decide_eq_true_eq, Bool.and_eq_true, isSpad_iff, State.busy,
    Option.isSome_iff_ne_none]

/-- CMD is the register at 0x010 and at no other offset. -/
theorem regAt_eq_cmd {n : Nat} : regAt n = .cmd ↔ n = 0x010 := by
  refine ⟨fun h => ?_, fun h => h ▸ rfl⟩
  unfold regAt at h
  split at h
  all_goals first | rfl | cases h | skip
  split at h <;> cases h

/-- CTRL is the register at 0x008 and at no other offset. -/
theorem regAt_eq_ctrl {n : Nat} : regAt n = .ctrl ↔ n = 0x008 := by
  refine ⟨fun h => ?_, fun h => h ▸ rfl⟩
  unfold regAt at h
  split at h
  all_goals first | rfl | cases h | skip
  split at h <;> cases h

/-- The operand registers stand at 0x018 to 0x030. -/
theorem regAt_arg {n : Nat} (h : regAt n ∈ [Reg.argSrc, .argSlen, .argSrc2, .argS2len, .argDst, .argDlen, .argIter]) :
    0x018 ≤ n ∧ n ≤ 0x030 := by
  unfold regAt at h
  split at h
  all_goals first | decide | (exfalso; revert h; decide) | skip
  split at h <;> simp at h

/-! ### The port -/

/-- A CMD write of any word: an illegal word, or exec of the command it decodes to. -/
theorem issueWord_cases (w : Word) (s : State) :
    (∃ e, decode w = .error e ∧ issueWord w s = .next s.issueIllegal) ∨ ∃ i, decode w = .ok i ∧ issueWord w s = exec i s := by
  cases h : decode w with
  | ok i => exact .inr ⟨i, rfl, by rw [issueWord, h]⟩
  | error e => exact .inl ⟨e, rfl, by rw [issueWord, h]⟩

/-- A CMD write in the host's turn: dropped, rejected or accepted. -/
theorem issueWord_hostTurn {s t : State} {w : Word} (hs : s.HostTurn) (h : issueWord w s = .next t) :
    (s.busy = true ∧ t = s.dropCommand) ∨
      (s.busy = false ∧ ((∃ code, code ≠ .noError ∧ (∀ i, decode w = .ok i → firstError (checkRow i s.latch s.sha) ≠ none) ∧
          t = s.accepting.raiseError code) ∨
        ∃ i, decode w = .ok i ∧ firstError (checkRow i s.latch s.sha) = none ∧ t = s.accepting.start i s.latch)) := by
  rcases issueWord_cases w s with ⟨e, hd, hw⟩ | ⟨i, hd, hw⟩ <;> rw [hw] at h
  · cases h
    exact (issueIllegal_cases s).imp id (And.imp id fun h => .inl ⟨_, by decide, fun i hi => by simp [hd] at hi, h⟩)
  · rw [exec_hostTurn i hs] at h
    cases h
    rcases issue_cases s i (checkRow i) with h | ⟨hb, code, hc, h⟩ | ⟨hb, hc, h⟩
    · exact .inl h
    · refine .inr ⟨hb, .inl ⟨code, firstError_ne_noError hc, fun j hj => ?_, h⟩⟩
      obtain rfl : i = j := by simpa [hd] using hj
      simp [hc]
    · exact .inr ⟨hb, .inr ⟨i, hd, hc, h⟩⟩

/-- What an admitted or refused write did: a bus error response, a scratchpad write, a CMD write, or a write to one of the registers, which
leaves all but CTRL, the operand registers and STATUS, and sets no STATUS bit. -/
theorem busWrite_next {s t : State} {off : BitVec 12} {d : Word} {strb : BitVec 4} (h : s.busWrite off d strb = .next t) :
    t = s.raiseBusError ∨
      (strb = 0b1111 ∧ s.badAccess off = false ∧ 0x800 ≤ off.toNat ∧ s.pending = none ∧
        t = (s.respond 0).writeSpad (off.toNat - 0x800) d) ∨
      (strb = 0b1111 ∧ off = 0x010 ∧ issueWord d (s.respond 0) = .next t) ∨
      (strb = 0b1111 ∧ ∃ (c : Ctrl) (a : Args) (st : Status), t = { s.respond 0 with ctrl := c, args := a, status := st } ∧
        (c ≠ s.ctrl → off = 0x008) ∧ (a ≠ s.args → 0x018 ≤ off.toNat ∧ off.toNat ≤ 0x030) ∧
        (st.done = true → s.status.done = true) ∧ (st.err = true → s.status.err = true) ∧
        (st.cmdOvr = true → s.status.cmdOvr = true) ∧ (st.busErr = true → s.status.busErr = true)) := by
  rcases busWrite_cases s off d strb with ⟨_, h1⟩ | ⟨hb, hs, h1⟩ | ⟨hb, hs, h1⟩ <;> rw [h1] at h
  · cases h
    exact .inl rfl
  · cases h
    simp only [Bool.or_eq_false_iff, bne_eq_false_iff_eq] at hb
    have h800 := (isSpad_iff off).1 hs
    refine .inr (.inl ⟨hb.2, hb.1, h800, ?_, rfl⟩)
    by_contra hp
    exact absurd ((badAccess_iff s off).2 (.inr ⟨h800, hp⟩)) (by simp [hb.1])
  · simp only [Bool.or_eq_false_iff, bne_eq_false_iff_eq] at hb
    have arg (hr : regAt off.toNat ∈ [Reg.argSrc, .argSlen, .argSrc2, .argS2len, .argDst, .argDlen, .argIter]) := regAt_arg hr
    cases hr : regAt off.toNat with
    | cmd =>
      rw [hr] at h
      exact .inr (.inr (.inl ⟨hb.2, BitVec.eq_of_toNat_eq (regAt_eq_cmd.1 hr), h⟩))
    | ctrl =>
      have hc := BitVec.eq_of_toNat_eq (y := 0x008) (regAt_eq_ctrl.1 hr)
      rw [hr] at h
      cases h
      exact .inr (.inr (.inr ⟨hb.2, _, _, _, rfl, fun _ => hc, fun h => absurd rfl h, id, id, id, id⟩))
    | status =>
      rw [hr] at h
      cases h
      refine .inr (.inr (.inr ⟨hb.2, s.ctrl, s.args, s.status.w1c d, rfl, fun h => absurd rfl h, fun h => absurd rfl h, ?_⟩))
      simp only [Status.w1c, Bool.and_eq_true]
      exact ⟨And.left, And.left, And.left, And.left⟩
    | _ =>
      rw [hr] at h arg
      cases h
      first
      | exact .inr (.inr (.inr ⟨hb.2, _, _, _, rfl, fun h => absurd rfl h, fun h => absurd rfl h, id, id, id, id⟩))
      | exact .inr (.inr (.inr ⟨hb.2, _, _, _, rfl, fun h => absurd rfl h, fun _ => arg (by decide), id, id, id, id⟩))

/-! ### The host's move -/

/-- A transaction gives a next state only while `rst_n` = 1 (R150). -/
theorem onBus_eq_next {s u : State} {o : Host.Outcome State Fault Refusal} (h : s.onBus o = .next u) : s.rstN = true ∧ o = .next u := by
  unfold State.onBus at h
  split at h
  · exact ⟨‹_›, h⟩
  · cases h

theorem next_inj {s u : State} (h : (.next s : Host.Outcome State Fault Refusal) = .next u) : u = s := by cases h; rfl

/-- One turn of `poll`: the line stays while bit 0 of the answer is 1. -/
theorem pollStatus_cases (s : State) :
    ((s.readInto 0x00C 0).host.resp.data.getLsbD 0 = true ∧ s.pollStatus = (s.readInto 0x00C 0).setScript (.poll :: s.host.script)) ∨
      ((s.readInto 0x00C 0).host.resp.data.getLsbD 0 = false ∧ s.pollStatus = s.readInto 0x00C 0) := by
  cases h : (s.readInto 0x00C 0).host.resp.data.getLsbD 0
  · exact .inr ⟨rfl, by simp only [State.pollStatus, h]; rfl⟩
  · exact .inl ⟨rfl, by simp only [State.pollStatus, h]; rfl⟩

/-- What a line of the host that gives a next state did. -/
theorem hostMove_cases {s u : State} (h : hostMove s = .next u) :
    (s.host.script = [] ∧ u = s) ∨
      ∃ rest,
        (∃ off d strb, s.host.script = .write off d strb :: rest ∧ s.rstN = true ∧ (s.setScript rest).busWrite off d strb = .next u) ∨
        (∃ off var, s.host.script = .read off var :: rest ∧ s.rstN = true ∧ u = (s.setScript rest).readInto off var) ∨
        (s.host.script = .poll :: rest ∧ s.rstN = true ∧ u = (s.setScript rest).pollStatus) ∨
        (∃ var v, s.host.script = .expect var v :: rest ∧
          u = if cellGet s.host.vars var = some v then s.setScript rest else (s.setScript rest).failExpect) ∨
        ∃ level, s.host.script = .resetPin level :: rest ∧ u = (s.setScript rest).drivePin level := by
  unfold hostMove at h
  split at h
  · rename_i hs
    exact .inl ⟨hs, by cases h; rfl⟩
  · rename_i op rest hs
    refine .inr ⟨rest, ?_⟩
    cases op with
    | write off d strb =>
      exact .inl ⟨off, d, strb, hs, onBus_eq_next h⟩
    | read off var =>
      exact .inr (.inl ⟨off, var, hs, (onBus_eq_next h).1, next_inj (onBus_eq_next h).2⟩)
    | poll =>
      exact .inr (.inr (.inl ⟨hs, (onBus_eq_next h).1, next_inj (onBus_eq_next h).2⟩))
    | expect var v =>
      exact .inr (.inr (.inr (.inl ⟨var, v, hs, next_inj h⟩)))
    | resetPin level =>
      exact .inr (.inr (.inr (.inr ⟨level, hs, next_inj h⟩)))

/-! ### The step -/

/-- What a step that gives a next state did: the completion step of the pending command, or a line of the host. -/
theorem step_cases {s t : State} (h : step s = .next t) :
    (∃ p, s.pending = some p ∧ s.wait = 0 ∧ firstError (checkRow p.instr p.l s.sha) = none ∧
      t = (effectOf p.instr p.l s).completed) ∨
      (s.HostTurn ∧ ∃ u, hostMove s = .next u ∧ t = if s.busy then u.tick else u) := by
  by_cases ht : s.HostTurn
  · refine .inr ⟨ht, ?_⟩
    rw [step, agentStep_hostTurn ht] at h
    cases hb : s.busy
    · exact ⟨t, by simpa [hb] using h, by simp⟩
    · obtain ⟨u, h1, h2⟩ := thenNext_eq_next (by simpa [hb] using h)
      exact ⟨u, h1, by simpa using h2⟩
  · rw [State.HostTurn] at ht
    push Not at ht
    obtain ⟨p, hp⟩ := Option.ne_none_iff_exists'.mp ht.1
    rw [step, agentStep_engineTurn hp ht.2, exec_engineTurn p.instr hp ht.2, State.complete] at h
    refine .inl ⟨p, hp, ht.2, ?_⟩
    cases hf : firstError (checkRow p.instr p.l s.sha) with
    | none => exact ⟨rfl, by simpa [hf, eq_comm] using h⟩
    | some c => simp [hf] at h

/-- A run whose first step gives a next state goes on from there. -/
theorem run_succ {s t : State} (k : Nat) (h : step s = .next t) :
    Host.Core.run Sys2Proof.core (k + 1) s = Host.Core.run Sys2Proof.core k t := by
  have hc : Sys2Proof.core.step s = .next t := h
  simp only [Host.Core.run]
  rw [hc]

end Sys2Proof.Machine
end

