-- ==== Sys2Proof/Tests/Slice0.lean ====
section
/-! SUPPORT. The model's own tests. Expected values come from the vectors of 95_test_vectors.md and the examples of the rules, named at each
test. The theorems named `witness_…` show that the hypotheses of the statement they are named after can be met together. -/

namespace Sys2Proof.Tests

open Sys2Proof Sys2Proof.Machine

/-! ### Helpers -/

/-- The outcome is a next state that passes the check. -/
def nextIs (o : Host.Outcome State Fault Refusal) (check : State → Bool) : Bool :=
  match o with
  | .next t => check t
  | _ => false

/-- Right after reset, with the scratchpad holding the bytes from offset 0 and the source region set on them. -/
def withBytes (bytes : List Byte) : State :=
  { State.reset with
    spad := Memory.writeBytes [] 0 bytes
    args := { State.reset.args with slen := BitVec.ofNat 32 bytes.length, dst := 0x100 } }

/-- The state with a command pending on the operands its registers hold, at the engine's turn. -/
def pendingOn (i : Instr) (s : State) : State := { s with pending := some ⟨i, s.latch⟩ }

/-- The host is about to take this line. -/
def about (op : HostOp) (s : State) : State := s.setScript [op]

/-- A command is pending and one host move is left before its completion. -/
def busyState : State := { pendingOn .nop State.reset with wait := 1 }

/-- An open stream that has absorbed nothing (V-SH12). -/
def streaming (s : State) : State := { s with sha := { active := true, h := iv256, len := 0, buf := [] } }

/-! ### Well-formedness: an ill-formed term for each check -/

theorem test_wellFormed_opcode : CmdFields.wellFormed ⟨0x08, false, 0⟩ = false := by decide
theorem test_wellFormed_reserved : CmdFields.wellFormed ⟨0x07, false, 1⟩ = false := by decide
theorem test_wellFormed_mnemonic_flag : CmdFields.wellFormed ⟨0x02, true, 0⟩ = false := by decide
theorem test_wellFormed_accepts : CmdFields.wellFormed ⟨0x07, true, 0⟩ = true ∧ ∀ i : Instr, i.wellFormed = true :=
  ⟨by decide, by intro i; cases i <;> decide⟩
theorem test_asm_offset : Asm.wellFormed (.wr 4096 0) = false ∧ Asm.wellFormed (.run (.rd 4096 0)) = false := by decide
theorem test_asm_spad_put : Asm.wellFormed (.spadPut 2 [0]) = false ∧ Asm.wellFormed (.spadPut 2048 [0]) = false := by decide
theorem test_asm_spad_get : Asm.wellFormed (.spadGet 2044 5 0) = false ∧ Asm.wellFormed (.spadGet 2044 4 0) = true := by decide

/-! ### Decoding: words written out field by field, RSV (31:9), M (8), OP (7:0), from R70 and R72 -/

theorem test_decode_control : decode (0b00000000000000000000000#23 ++ 0b0#1 ++ 0b00000000#8) = .ok .nop := by decide
theorem test_decode_hash :
    decode (0b00000000000000000000000#23 ++ 0b0#1 ++ 0b00000001#8) = .ok .shaInit ∧
    decode (0b00000000000000000000000#23 ++ 0b0#1 ++ 0b00000010#8) = .ok .shaUpdate ∧
    decode (0b00000000000000000000000#23 ++ 0b0#1 ++ 0b00000011#8) = .ok .shaFinal ∧
    decode (0b00000000000000000000000#23 ++ 0b0#1 ++ 0b00000100#8) = .ok .sha256 ∧
    decode (0b00000000000000000000000#23 ++ 0b0#1 ++ 0b00000101#8) = .ok .cksumAppend := by decide
theorem test_decode_packer : decode (0b00000000000000000000000#23 ++ 0b0#1 ++ 0b00000110#8) = .ok .pack := by decide
theorem test_decode_stretcher :
    decode (0b00000000000000000000000#23 ++ 0b0#1 ++ 0b00000111#8) = .ok .pbkdf2 ∧
    decode (0b00000000000000000000000#23 ++ 0b1#1 ++ 0b00000111#8) = .ok .pbkdf2M := by decide
/-- The host's entry: a command word has 32 bits and no more. -/
theorem test_decodeTableWord :
    decodeTableWord 32 0x107 = some .pbkdf2M ∧ decodeTableWord 8 0x05 = some .cksumAppend ∧ decodeTableWord 32 0x8 = none ∧
    decodeTableWord 8 0x107 = none ∧ decodeTableWord 33 0 = none := by decide

/-! ### NOP -/

/-- V-EN1. -/
theorem test_nop_status : nextIs (step (pendingOn .nop State.reset)) (fun t => t.statusWord t.sha.active == 0x00000002) = true := by decide
/-- V-IR1: the interrupt is low while BUSY and high after the completion. -/
theorem test_nop_interrupt :
    let s := pendingOn .nop { State.reset with ctrl := { packTrunc := false, irqEn := true, gw := 11 } }
    (!s.irq && nextIs (step s) State.irq) = true := by decide

/-! ### The hash core -/

/-- V-SH12. -/
theorem test_shaInit :
    nextIs (step (pendingOn .shaInit State.reset)) (fun t => t.sha.active && t.sha.h.h0 == 0x6a09e667 && t.sha.len == 0) = true := by decide
/-- R101, the example. -/
theorem test_shaUpdate_example :
    nextIs (step (pendingOn .shaUpdate (streaming (withBytes [0x61, 0x62, 0x63]))))
      (fun t => t.sha.len == 3 && t.sha.buf == [0x61, 0x62, 0x63] && t.sha.h == iv256) = true := by decide
set_option maxRecDepth 100000 in
/-- V-SH13: the state after 64 bytes "a". -/
theorem test_shaUpdate_block :
    nextIs (step (pendingOn .shaUpdate (streaming (withBytes (List.replicate 64 0x61)))))
      (fun t => t.sha.h.h0 == 0xdf5bb81c && t.sha.len == 64 && t.sha.buf == []) = true := by decide
set_option maxRecDepth 100000 in
/-- V-SH14, V-SH21: FINAL right after INIT, to the last 32 bytes. -/
theorem test_shaFinal_empty :
    nextIs (step (pendingOn .shaFinal (streaming { State.reset with args := { State.reset.args with dst := 2016 } })))
      (fun t => t.spad.byte 2016 == some 0xe3 && t.spad.byte 2047 == some 0x55 && !t.sha.active) = true := by decide
/-- V-SH15: SEQUENCE. -/
theorem test_shaFinal_sequence :
    nextIs (exec .shaFinal State.reset) (fun t => t.status.err && t.errcode == .sequence && !t.busy) = true := by decide
set_option maxRecDepth 100000 in
/-- V-SH2: the digest of "abc" and what the engine reads after it. -/
theorem test_sha256_abc :
    nextIs (step (pendingOn .sha256 (withBytes [0x61, 0x62, 0x63])))
      (fun t => t.spad.byte 0x100 == some 0xba && t.spad.byte 0x11F == some 0xad && t.sha.h.h0 == 0xba7816bf && t.sha.h.h7 == 0xf20015ad
        && t.sha.len == 3 && !t.sha.active) = true := by decide
/-- V-SH19: OVERLAP. -/
theorem test_sha256_overlap :
    rejection .sha256 { State.reset.latch with slen := 64, dst := 32 } State.reset.sha = some .overlap ∧
    firstError (checkRow .sha256 { State.reset.latch with slen := 64, dst := 32 } State.reset.sha) = some .overlap := by decide
set_option maxRecDepth 100000 in
/-- V-CK1. -/
theorem test_cksumAppend_zeros :
    nextIs (step (pendingOn .cksumAppend (withBytes (List.replicate 32 0))))
      (fun t => t.spad.byte 32 == some 0x66 && t.cksum == 0x66 && t.sha.len == 32 && t.sha.h.h0 == 0x66687aad) = true := by decide
/-- V-CK5: RANGE. -/
theorem test_cksumAppend_range :
    nextIs (exec .cksumAppend { State.reset with args := { State.reset.args with src := 2016, slen := 32 } })
      (fun t => t.errcode == .range && t.spad == []) = true := by decide

/-! ### The bit-packer -/

/-- V-PK11. -/
theorem test_pack_five_bits :
    packIndices [0xDE, 0xAD, 0xBE, 0xEF, 0x01] 5 8 = [27, 26, 22, 27, 29, 27, 24, 1] := by decide
/-- V-PK4. -/
theorem test_pack_truncates :
    nextIs (step (pendingOn .pack { withBytes [0xFF, 0xFF] with ctrl := { packTrunc := true, irqEn := false, gw := 11 } }))
      (fun t => t.packCount == 1 && t.spad.byte 0x100 == some 0xFF && t.spad.byte 0x101 == some 0x07 && t.spad.byte 0x102 == none) = true := by
  decide

/-! ### The key-stretcher -/

set_option maxRecDepth 100000 in
/-- V-KD8. -/
theorem test_pbkdf2_empty :
    nextIs (step (pendingOn .pbkdf2 { State.reset with args := { State.reset.args with dst := 0x100, dlen := 1, iter := 1 } }))
      (fun t => t.spad == [(0x100, 0x6d)] && t.sha == State.reset.sha) = true := by decide
set_option maxRecDepth 100000 in
/-- V-KD9: a key longer than a block, and the prefix "mnemonic" alone as the salt. -/
theorem test_pbkdf2M_long_key :
    (pbkdf2Derive (List.replicate 200 0x78) mnemonicPrefix 1 64).take 4 = [0x36, 0x8f, 0x27, 0x30] := by decide
set_option maxRecDepth 100000 in
/-- SHA512("abc"), 95_test_vectors.md section 2.3. -/
theorem test_sha512_abc : (sha512Digest [0x61, 0x62, 0x63]).take 4 = [0xdd, 0xaf, 0x35, 0xa1] := by decide
set_option maxRecDepth 100000 in
/-- R109, its last sentence: the upper halves of the first 64 constants of SHA-512 are the constants of SHA-256. -/
theorem test_round_constants :
    k256.length = 64 ∧ k512.length = 80 ∧ (k512.take 64).map (fun k => k.extractLsb' 32 32) = k256 ∧ k512.getLast? = some 0x6c44198c4a475817 := by decide

/-! ### The port, the registers and the interrupt -/

/-- V-BU1, V-BU3, V-BU9. -/
theorem test_reads :
    (State.reset.busRead 0x802).host.resp = ⟨0, true⟩ ∧ (State.reset.busRead 0x802).status.busErr = true ∧
    (State.reset.busRead 0x044).host.resp = ⟨0, false⟩ ∧ (State.reset.busRead 0x010).host.resp = ⟨0, false⟩ := by decide
/-- V-BU2: a partial write. -/
theorem test_partial_write :
    nextIs (State.reset.busWrite 0x800 1 0b0011) (fun t => t.host.resp.err && t.status.busErr && t.spad == []) = true := by decide
/-- V-BU4. -/
theorem test_id_is_constant :
    nextIs (State.reset.busWrite 0x000 5 0b1111) (fun t => (t.busRead 0x000).host.resp == ⟨0x4D574731, false⟩) = true := by decide
/-- V-BU5. -/
theorem test_scratchpad_lock : (busyState.busRead 0x800).host.resp = ⟨0, true⟩ ∧ (busyState.busRead 0x7FC).host.resp = ⟨0, false⟩ := by decide
/-- V-BU6. -/
theorem test_status_w1c : nextIs (State.reset.raiseBusError.busWrite 0x00C 0x10 0b1111) (fun t => !t.status.busErr) = true := by decide
/-- V-BU7. -/
theorem test_scratchpad_lanes :
    nextIs (State.reset.busWrite 0x800 0x00636261 0b1111)
      (fun t => t.spad == [(0, 0x61), (1, 0x62), (2, 0x63), (3, 0x00)] && (t.busRead 0x800).host.resp == ⟨0x00636261, false⟩) = true := by decide
/-- V-BU8. -/
theorem test_ctrl_reserved_bits :
    nextIs (State.reset.busWrite 0x008 0xFFFFFFFF 0b1111) (fun t => (t.busRead 0x008).host.resp == ⟨0x00001F03, false⟩) = true := by decide
/-- V-IR2. -/
theorem test_error_interrupt :
    nextIs (step (about (.write 0x010 8 0b1111) { State.reset with ctrl := { packTrunc := false, irqEn := true, gw := 11 } }))
      (fun t => t.irq && t.errcode == .illegal) = true := by decide
/-- V-EN7: the word of PBKDF2.M with ITER = 0. -/
theorem test_config_first :
    nextIs (step (about (.write 0x010 0x107 0b1111) { State.reset with args := { State.reset.args with src := 4000, iter := 0 } }))
      (fun t => t.errcode == .config) = true := by decide
/-- V-EN8. -/
theorem test_dropped_command :
    nextIs (step (about (.write 0x010 8 0b1111) busyState)) (fun t => t.status.cmdOvr && t.busy && !t.status.err && t.errcode == .noError) = true := by
  decide
/-- P1: the first line of the program, with its pad byte, and the lines of `run SHA256.UPDATE 0x000, 3`. -/
theorem test_expansions :
    (Asm.spadPut 0 [0x61, 0x62, 0x63]).expand = [.write 0x800 0x00636261 0b1111] ∧
    (Asm.run (.shaUpdate 0 3)).expand = [.write 0x018 0 0b1111, .write 0x01C 3 0b1111, .write 0x010 2 0b1111, .poll] := by decide
/-- R127: the moves of the stage from entropy to indices, for P2's operands: 3 + 1 + 2 for CKSUM.APPEND, 4 + 1 + 2 for PACK of one byte more. -/
theorem test_indices_program :
    ((indicesProgram 0x100 0 32).flatMap Asm.expand).length = 13 ∧
    ((indicesProgram 0x100 0 32).flatMap Asm.expand)[7]? = some (.write 0x01C 33 0b1111) := by decide
/-- R161, R163: the log, the variables and a failed `expect` of what ran before are no part of the run of a program loaded now. -/
theorem test_load_starts_a_run :
    let s := State.reset.raiseBusError.failExpect.setVar 1 5
    (!s.runClean && s.runFailed && (s.load [.clear]).runClean && !(s.load [.clear]).runFailed && (s.load [.clear]).status.busErr
      && (s.load [.clear]).host.script == [.write 0x00C 0x1E 0b1111] && cellGet (s.load [.clear]).host.vars 1 == none) = true := by decide
/-- R148: reset abandons a pending command. -/
theorem test_reset_abandons :
    nextIs (step (about (.resetPin false) busyState)) (fun t => !t.busy && !t.status.done && !t.rstN) = true := by decide

/-! ### Witnesses: encoding and the step -/

theorem witness_EncodeThenDecodeIsTheCommand : Instr.wellFormed .nop = true ∧ Instr.wellFormed .pbkdf2M = true := by decide

/-- Each of the three conditions alone, at its least and its greatest value, and the two ends of the legal words. -/
theorem witness_IllegalWordIsRejected :
    State.reset.pending = none ∧
    8 ≤ ((0x00000008 : Word).extractLsb' 0 8).toNat ∧ 8 ≤ ((0x000000FF : Word).extractLsb' 0 8).toNat ∧
    (0x00000200 : Word).extractLsb' 9 23 ≠ 0 ∧ (0x80000000 : Word).extractLsb' 9 23 ≠ 0 ∧
    ((0x00000106 : Word).getLsbD 8 = true ∧ (0x00000106 : Word).extractLsb' 0 8 ≠ 7) ∧
    ¬(8 ≤ ((0x00000007 : Word).extractLsb' 0 8).toNat ∨ (0x00000007 : Word).extractLsb' 9 23 ≠ 0 ∨
      ((0x00000007 : Word).getLsbD 8 = true ∧ (0x00000007 : Word).extractLsb' 0 8 ≠ 7)) ∧
    ¬(8 ≤ ((0x00000107 : Word).extractLsb' 0 8).toNat ∨ (0x00000107 : Word).extractLsb' 9 23 ≠ 0 ∨
      ((0x00000107 : Word).getLsbD 8 = true ∧ (0x00000107 : Word).extractLsb' 0 8 ≠ 7)) := by
  refine ⟨rfl, ?_, ?_, ?_, ?_, ?_, ?_, ?_⟩ <;> decide

theorem witness_StepIssuesTheDecodedCommand :
    (about (.write 0x010 7 0b1111) State.reset).host.script = .write 0x010 7 0b1111 :: [] ∧ State.reset.rstN = true ∧
    decode 7 = .ok .pbkdf2 ∧ (about (.write 0x010 7 0b1111) State.reset).pending = none ∧
    (about (.write 0x010 7 0b1111) busyState).host.script = .write 0x010 7 0b1111 :: [] ∧ busyState.rstN = true ∧
    (about (.write 0x010 7 0b1111) busyState).pending ≠ none ∧ (about (.write 0x010 7 0b1111) busyState).wait ≠ 0 := by decide

theorem witness_StepCompletesThePendingCommand :
    (pendingOn .pack State.reset).pending = some ⟨.pack, State.reset.latch⟩ ∧ (pendingOn .pack State.reset).wait = 0 := by decide

theorem witness_PlacedWordIsTheNextCommand :
    decodeTableWord 32 0x107 = some .pbkdf2M ∧ State.reset.pending = none ∧ busyState.pending ≠ none := by decide

theorem witness_StepTakesTheNextHostLine :
    (about .poll State.reset).HostTurn ∧ (about .poll State.reset).host.script = [.poll] ∧ (about .poll State.reset).pending = none ∧
    (about .poll busyState).HostTurn ∧ (about .poll busyState).pending ≠ none ∧
    State.reset.HostTurn ∧ State.reset.host.script = [] ∧ busyState.HostTurn ∧ busyState.host.script = [] := by
  unfold State.HostTurn
  decide

theorem witness_TransactionInResetIsRefused :
    let s : State := { State.reset with rstN := false }
    s.rstN = false ∧ s.pending = none ∧ (about (.write 0x010 0 0b1111) s).host.script = .write 0x010 0 0b1111 :: [] ∧
    (about (.read 0x000 1) s).host.script = .read 0x000 1 :: [] ∧ (about .poll s).host.script = .poll :: [] := by decide

/-! ### Witnesses: acceptance. Each condition of each row of R79 just past its boundary, and each row just within it. -/

/-- The latched operands right after reset. -/
def latch0 : Latched := State.reset.latch
/-- The engine right after reset, and with a stream of n bytes open. -/
def sha0 : ShaState := State.reset.sha
def stream (n : BitVec 64) : ShaState := { sha0 with active := true, len := n }

set_option maxRecDepth 100000 in
theorem witness_Rejection_hash :
    rejection .shaUpdate latch0 sha0 = some .sequence ∧
    rejection .shaUpdate { latch0 with src := 2048, slen := 1 } (stream 0) = some .range ∧
    rejection .shaUpdate { latch0 with slen := 2 } (stream 0x1FFFFFFFFFFFFFFE) = some .length ∧
    rejection .shaFinal latch0 sha0 = some .sequence ∧
    rejection .shaFinal { latch0 with dst := 2017 } (stream 0) = some .range ∧
    rejection .sha256 { latch0 with src := 1, slen := 2048 } sha0 = some .range ∧
    rejection .sha256 { latch0 with dst := 2017 } sha0 = some .range ∧
    rejection .sha256 { latch0 with slen := 64, dst := 63 } sha0 = some .overlap ∧
    rejection .cksumAppend { latch0 with src := 2016, slen := 32 } sha0 = some .range := by decide

theorem witness_Rejection_pack :
    rejection .pack { latch0 with gw := 0 } sha0 = some .config ∧
    rejection .pack { latch0 with gw := 17 } sha0 = some .config ∧
    rejection .pack { latch0 with src := 2040, slen := 9, trunc := true } sha0 = some .range ∧
    rejection .pack { latch0 with slen := 2 } sha0 = some .remainder ∧
    rejection .pack { latch0 with slen := 11, dst := 2033 } sha0 = some .range ∧
    rejection .pack { latch0 with slen := 33, dst := 32 } sha0 = some .overlap := by decide

theorem witness_Rejection_pbkdf2 (i : Instr) (h : i = .pbkdf2 ∨ i = .pbkdf2M) :
    rejection i { latch0 with iter := 0 } sha0 = some .config ∧
    rejection i { latch0 with dlen := 0 } sha0 = some .config ∧
    rejection i { latch0 with src := 2049 } sha0 = some .range ∧
    rejection i { latch0 with src2 := 2047, s2len := 2 } sha0 = some .range ∧
    rejection i { latch0 with dst := 1985 } sha0 = some .range ∧
    rejection i { latch0 with slen := 93, dst := 92 } sha0 = some .overlap ∧
    rejection i { latch0 with src2 := 63, s2len := 1 } sha0 = some .overlap := by
  rcases h with rfl | rfl <;> decide

set_option maxRecDepth 100000 in
theorem witness_Acceptance :
    (∀ i ∈ [Instr.nop, .shaInit, .sha256, .cksumAppend, .pack, .pbkdf2, .pbkdf2M], rejection i latch0 sha0 = none) ∧
    rejection .shaUpdate { latch0 with src := 2048 } (stream 0x1FFFFFFFFFFFFFFF) = none ∧
    rejection .shaFinal { latch0 with dst := 2016 } (stream 0) = none ∧
    rejection .sha256 { latch0 with slen := 2016, dst := 2016 } sha0 = none ∧
    rejection .cksumAppend { latch0 with src := 2015, slen := 32 } sha0 = none ∧
    rejection .pack { latch0 with slen := 33, dst := 33 } sha0 = none ∧
    rejection .pack { latch0 with slen := 3, gw := 16, trunc := true, dst := 2046 } sha0 = none ∧
    rejection .pbkdf2 { latch0 with slen := 93, s2len := 93, dst := 93 } sha0 = none ∧
    rejection .pbkdf2M { latch0 with dst := 1984 } sha0 = none ∧
    State.reset.pending = none ∧ latch0 = ⟨State.reset.args, State.reset.ctrl.gw, State.reset.ctrl.packTrunc⟩ := by decide

theorem witness_BusyCommandIsDropped :
    busyState.pending = some ⟨.nop, State.reset.latch⟩ ∧ busyState.wait ≠ 0 ∧ busyState.rstN = true ∧
    (about (.write 0x010 8 0b1111) busyState).host.script = .write 0x010 8 0b1111 :: [] := by decide

/-- An accepted word, a rejected one and an illegal one, each written in an idle state. -/
theorem witness_StatusShowsTheOutcome :
    State.reset.pending = none ∧ decode 6 = .ok .pack ∧ rejection .pack latch0 sha0 = none ∧
    decode 3 = .ok .shaFinal ∧ rejection .shaFinal latch0 sha0 = some .sequence ∧ decode 8 = .error .unknownOpcode := by decide

/-! ### Witnesses: completion -/

/-- Three written bytes. -/
def abc : List Byte := [0x61, 0x62, 0x63]

theorem abc_held : (withBytes abc).spad.Holds 0 abc := by
  unfold Memory.Holds
  decide

/-- NOP and SHA256.INIT idle, pending, and (NOP) written while BUSY = 1. -/
theorem witness_NopAndInit :
    busyState.pending = some ⟨.nop, latch0⟩ ∧ busyState.wait ≠ 0 ∧ State.reset.status = ⟨false, false, false, false⟩ ∧
    State.reset.sha.active = false ∧
    (pendingOn .nop State.reset).pending = some ⟨.nop, latch0⟩ ∧ (pendingOn .shaInit State.reset).pending = some ⟨.shaInit, latch0⟩ ∧
    (pendingOn .nop State.reset).wait = 0 ∧ State.reset.pending = none := by decide

theorem witness_ShaUpdateAbsorbsTheRegion :
    let s := pendingOn .shaUpdate (streaming (withBytes abc))
    s.AtCompletion .shaUpdate s.latch ∧ abc.length = s.latch.slen.toNat ∧ s.spad.Holds s.latch.src.toNat abc :=
  ⟨⟨rfl, rfl, by decide⟩, rfl, abc_held⟩

theorem witness_ShaFinalWritesTheDigest :
    let s := pendingOn .shaFinal (streaming State.reset)
    s.AtCompletion .shaFinal s.latch := ⟨rfl, rfl, by decide⟩

theorem witness_Sha256WritesTheDigest :
    let s := pendingOn .sha256 (withBytes abc)
    s.AtCompletion .sha256 s.latch ∧ abc.length = s.latch.slen.toNat ∧ s.spad.Holds s.latch.src.toNat abc :=
  ⟨⟨rfl, rfl, by decide⟩, rfl, abc_held⟩

theorem witness_CksumAppendWritesTheChecksum :
    let s := pendingOn .cksumAppend (withBytes abc)
    s.AtCompletion .cksumAppend s.latch ∧ abc.length = s.latch.slen.toNat ∧ s.spad.Holds s.latch.src.toNat abc :=
  ⟨⟨rfl, rfl, by decide⟩, rfl, abc_held⟩

/-- Three bytes at width 8, so that three groups are written; k = 0 and k = 2 are the ends of their range. The witness of
`PackedIndexIsBelowTwoToTheWidth` as well. -/
theorem witness_PackWritesTheIndices :
    let s := pendingOn .pack { withBytes abc with ctrl := { packTrunc := false, irqEn := false, gw := 8 } }
    s.AtCompletion .pack s.latch ∧ abc.length = s.latch.slen.toNat ∧ s.spad.Holds s.latch.src.toNat abc ∧
      s.spad.written s.latch.src.toNat s.latch.slen.toNat = true ∧ 0 < 8 * abc.length / s.latch.gw.toNat ∧ 2 < 8 * abc.length / s.latch.gw.toNat :=
  ⟨⟨rfl, rfl, by decide⟩, rfl, abc_held, by decide, by decide, by decide⟩

theorem witness_Pbkdf2 :
    let s := { withBytes abc with args := { src := 0, slen := 3, src2 := 0, s2len := 3, dst := 0x100, dlen := 64, iter := 1 } }
    (pendingOn .pbkdf2 s).AtCompletion .pbkdf2 s.latch ∧ (pendingOn .pbkdf2M s).AtCompletion .pbkdf2M s.latch ∧
      abc.length = s.latch.slen.toNat ∧ abc.length = s.latch.s2len.toNat ∧ s.spad.Holds s.latch.src.toNat abc ∧
      s.spad.Holds s.latch.src2.toNat abc :=
  ⟨⟨rfl, rfl, by decide⟩, ⟨rfl, rfl, by decide⟩, rfl, rfl, abc_held, abc_held⟩

/-! ### Witnesses: unwritten bytes -/

/-- The source region is one byte longer than what is written. -/
def unwritten : State :=
  { withBytes abc with
    ctrl := { packTrunc := true, irqEn := false, gw := 11 }
    args := { src := 0, slen := 4, src2 := 0, s2len := 4, dst := 0x100, dlen := 64, iter := 1 } }

theorem witness_UnwrittenSources :
    unwritten.spad.written unwritten.latch.src.toNat unwritten.latch.slen.toNat = false ∧
    unwritten.spad.written unwritten.latch.src2.toNat unwritten.latch.s2len.toNat = false ∧
    (pendingOn .shaUpdate (streaming unwritten)).AtCompletion .shaUpdate unwritten.latch ∧
    (pendingOn .sha256 unwritten).AtCompletion .sha256 unwritten.latch ∧
    (pendingOn .cksumAppend unwritten).AtCompletion .cksumAppend unwritten.latch ∧
    (pendingOn .pack unwritten).AtCompletion .pack unwritten.latch ∧ 8 * unwritten.latch.slen.toNat / unwritten.latch.gw.toNat = 2 ∧
    (pendingOn .pbkdf2 unwritten).AtCompletion .pbkdf2 unwritten.latch ∧
    (pendingOn .pbkdf2M unwritten).AtCompletion .pbkdf2M unwritten.latch :=
  ⟨by decide, by decide, ⟨rfl, rfl, by decide⟩, ⟨rfl, rfl, by decide⟩, ⟨rfl, rfl, by decide⟩, ⟨rfl, rfl, by decide⟩, by decide, ⟨rfl, rfl, by decide⟩,
    ⟨rfl, rfl, by decide⟩⟩

/-- An open stream that has buffered one byte. -/
def buffered (s : State) : State := { s with sha := { active := true, h := iv256, len := 1, buf := [0x7A] } }

/-- UPDATE of an unwritten region just below, at and just above a block boundary (63, 64 and 65 bytes in all): below it the byte that stood in the
buffer, a written byte and an unwritten one are left to buffer, above it the last, unwritten byte. -/
theorem witness_ShaUpdateOfUnwrittenBytes_boundaries :
    let below := { buffered unwritten with args := { unwritten.args with slen := 62 } }
    let boundary := { buffered unwritten with args := { unwritten.args with slen := 63 } }
    let above := { buffered unwritten with args := { unwritten.args with slen := 64 } }
    ((pendingOn .shaUpdate below).AtCompletion .shaUpdate below.latch ∧
      below.spad.written below.latch.src.toNat below.latch.slen.toNat = false ∧ below.sha.buf.length + below.latch.slen.toNat = 63 ∧
      below.sha.buf[0]? = some 0x7A ∧ below.spad.byte (below.latch.src.toNat + 2) = some 0x63 ∧
      below.spad.byte (below.latch.src.toNat + 3) = none) ∧
    ((pendingOn .shaUpdate boundary).AtCompletion .shaUpdate boundary.latch ∧
      boundary.spad.written boundary.latch.src.toNat boundary.latch.slen.toNat = false ∧
      boundary.sha.buf.length + boundary.latch.slen.toNat = 64) ∧
    (pendingOn .shaUpdate above).AtCompletion .shaUpdate above.latch ∧
      above.spad.written above.latch.src.toNat above.latch.slen.toNat = false ∧ above.sha.buf.length + above.latch.slen.toNat = 65 ∧
      above.spad.byte (above.latch.src.toNat + 63) = none :=
  ⟨⟨⟨rfl, rfl, by decide⟩, by decide, by decide, by decide, by decide, by decide⟩, ⟨⟨rfl, rfl, by decide⟩, by decide, by decide⟩,
    ⟨rfl, rfl, by decide⟩, by decide, by decide, by decide⟩

/-! ### Witnesses: the algorithms and the packer -/

set_option maxRecDepth 100000 in
/-- The two sides of the padding boundary of each hash, the boundary values of k, and a padded message of one block or more. -/
theorem witness_Sha256Padding :
    (pad256 55).length = 9 ∧ (pad256 56).length = 72 ∧ (pad256 63).length = 65 ∧ (pad256 64).length = 64 ∧
    (sha2Pad 64 111).length = 17 ∧ (sha2Pad 64 112).length = 144 ∧
    0 < (abc ++ pad256 abc.length).length / 64 ∧ 0 < (abc ++ sha2Pad 64 abc.length).length / 128 := by decide

/-- A block of each width, and the ends of the ranges of t and i. -/
theorem witness_MessageSchedule :
    (List.replicate 64 (0x61 : Byte)).length = 2 * 32 ∧ (List.replicate 128 (0x61 : Byte)).length = 2 * 64 ∧
    (15 : Nat) < 16 ∧ (16 : Nat) ≤ 16 ∧ (63 : Nat) < 64 ∧ (79 : Nat) < 80 ∧ (7 : Nat) < 8 := by decide

theorem witness_BlockFunctionAndDerivedKey : (1 : Nat) ≤ 1 ∧ (0 : Nat) < 1 ∧ (64 : Nat) < 65 := by decide

theorem witness_Hmac : (List.replicate 128 (0 : Byte)).length ≤ 128 ∧ 128 < (List.replicate 129 (0 : Byte)).length := by simp

theorem witness_ShiftAccumulator : (1 : Nat) ≤ 1 ∧ (packAccumulate 11 [0xFF, 0xFF]).out = [0x7FF] ∧ (packAccumulate 11 [0xFF, 0xFF]).held = 5 := by
  decide

theorem witness_PackCornerWidths : abc[2]? = some 0x63 ∧ 2 * 0 + 1 < abc.length := by decide

theorem witness_Streams :
    let s := pendingOn .shaUpdate (streaming (withBytes abc))
    let f := pendingOn .shaFinal (streaming State.reset)
    (pendingOn .shaInit State.reset).AtCompletion .shaInit latch0 ∧
    s.AtCompletion .shaUpdate s.latch ∧ s.sha.Streams [] ∧ abc.length = s.latch.slen.toNat ∧ s.spad.Holds s.latch.src.toNat abc ∧
    f.AtCompletion .shaFinal f.latch ∧ f.sha.Streams [] :=
  ⟨⟨rfl, rfl, by decide⟩, ⟨rfl, rfl, by decide⟩, ⟨rfl, rfl, rfl, rfl⟩, rfl, abc_held, ⟨rfl, rfl, by decide⟩, ⟨rfl, rfl, rfl, rfl⟩⟩

/-- A completed INIT changes the engine, and so does a reset of an open stream. -/
theorem witness_OnlyHashCommandsChangeTheEngine :
    nextIs (step (pendingOn .shaInit State.reset)) (fun t => t.sha != State.reset.sha) = true ∧
    nextIs (step (about (.resetPin false) (streaming State.reset))) (fun t => t.sha != (streaming State.reset).sha) = true := by decide

/-! ### Witnesses: the port -/

/-- Each of the three conditions alone, and the offsets next to the boundaries. -/
theorem witness_BusErrors :
    (0xFFF : BitVec 12).toNat % 4 ≠ 0 ∧ (0b0111 : BitVec 4) ≠ 0b1111 ∧ (0x800 ≤ (0x800 : BitVec 12).toNat ∧ busyState.pending ≠ none) ∧
    ¬((0x7FC : BitVec 12).toNat % 4 ≠ 0 ∨ (0b1111 : BitVec 4) ≠ 0b1111 ∨ (0x800 ≤ (0x7FC : BitVec 12).toNat ∧ busyState.pending ≠ none)) ∧
    ¬((0xFFC : BitVec 12).toNat % 4 ≠ 0 ∨ (0x800 ≤ (0xFFC : BitVec 12).toNat ∧ State.reset.pending ≠ none)) ∧
    nextIs (busyState.busWrite 0x7FC 0 0b1111) (fun _ => true) = true := by decide

theorem witness_SpadWords :
    State.reset.pending = none ∧ (0 : Nat) < 512 ∧ (511 : Nat) < 512 ∧ (withBytes (abc ++ [0])).spad.Holds (4 * 0) [0x61, 0x62, 0x63, 0] := by
  unfold Memory.Holds
  decide

theorem witness_UnwrittenLanes :
    (withBytes abc).pending = none ∧ (withBytes abc).spad.byte (4 * 0 + 3) = none ∧ (withBytes abc).spad.byte (4 * 0 + 0) = some 0x61 := by decide

theorem witness_ReservedOffsets :
    ∀ off ∈ ([0x044, 0x05C, 0x080, 0x7FC] : List (BitVec 12)),
      off.toNat % 4 = 0 ∧ ((0x044 ≤ off.toNat ∧ off.toNat ≤ 0x05C) ∨ (0x080 ≤ off.toNat ∧ off.toNat ≤ 0x7FF)) := by decide

theorem witness_IdleAndBusyReads : State.reset.pending = none ∧ busyState.pending = some ⟨.nop, latch0⟩ := by decide

/-- The two ends of the window. -/
theorem witness_WindowOffset :
    windowOffset Config.hcBase = some 0 ∧ windowOffset (Config.hcBase + 0xFFF) = some 0xFFF ∧ windowOffset (Config.hcBase + 0x1000) = none := by
  refine ⟨?_, ?_, ?_⟩ <;> simp [windowOffset]

theorem witness_Interrupt :
    nextIs (State.reset.busWrite 0x00C 0x0000001E 0b1111) (fun _ => true) = true ∧
    (0x00000B00 : Word).getLsbD 1 = false ∧ nextIs (State.reset.busWrite 0x008 0x00000B00 0b1111) (fun _ => true) = true ∧
    State.reset.pending = none ∧ nextIs (exec .nop State.reset) (fun t => t.pending.isSome) = true := by decide

/-! ### Witnesses: the engine and the whole machine -/

/-- The state after reset keeps the invariant, and so does one with a command pending. -/
theorem inv_busyState : busyState.Inv where
  spad := by decide
  vars := by decide
  sha := by unfold ShaState.Inv; decide
  pending := by
    intro p h
    obtain rfl : p = ⟨.nop, latch0⟩ := by simpa [busyState, pendingOn, latch0, eq_comm] using h
    decide
  report := by unfold State.ReportInv; decide
  reset := by unfold State.ResetInv; decide

theorem witness_PendingCommandCompletes :
    busyState.Inv ∧ busyState.pending = some ⟨.nop, latch0⟩ ∧ busyState.rstN = true ∧ ∀ level, HostOp.resetPin level ∉ busyState.host.script :=
  ⟨inv_busyState, rfl, rfl, fun _ h => by cases h⟩

theorem witness_CompletionNeverFails :
    let s : State := { busyState with wait := 0 }
    s.Inv ∧ s.pending = some ⟨.nop, latch0⟩ ∧ s.wait = 0 :=
  ⟨{ inv_busyState with reset := by unfold State.ResetInv; decide }, rfl, rfl⟩

theorem witness_CompletionReadsOnlyTheLatch :
    (pendingOn .pack State.reset).pending = some ⟨.pack, latch0⟩ ∧ (pendingOn .pack State.reset).wait = 0 := by decide

/-- Writes at the two ends of the operand registers change them, one at 0x008 changes CTRL, and a reset changes each. -/
theorem witness_OnlyTheHostWritesOperandRegisters :
    nextIs (exec .nop State.reset) (fun _ => true) = true ∧
    nextIs (step (about (.write 0x018 1 0b1111) State.reset)) (fun t => t.args != State.reset.args) = true ∧
    nextIs (step (about (.write 0x030 1 0b1111) State.reset)) (fun t => t.args != State.reset.args) = true ∧
    nextIs (step (about (.resetPin false) (withBytes abc))) (fun t => t.args != (withBytes abc).args) = true ∧
    nextIs (step (about (.write 0x008 0 0b1111) State.reset)) (fun t => t.ctrl != State.reset.ctrl) = true ∧
    nextIs (step (about (.resetPin false) unwritten)) (fun t => t.ctrl != unwritten.ctrl) = true := by decide

theorem witness_ScratchpadChanges :
    nextIs (step (pendingOn .pack { withBytes abc with ctrl := { packTrunc := false, irqEn := false, gw := 8 } }))
      (fun t => t.spad.byte 0x100 != (withBytes abc).spad.byte 0x100) = true ∧
    nextIs (step (about (.write 0x800 0 0b1111) State.reset)) (fun t => t.spad.byte 0 != none) = true ∧
    nextIs (step (about (.write 0xFFC 0 0b1111) State.reset)) (fun t => t.spad.byte 2047 != none) = true ∧
    nextIs (step (about (.resetPin false) (withBytes abc))) (fun t => t.spad.byte 0 != (withBytes abc).spad.byte 0) = true := by decide

/-- Each STATUS bit is set by a step of its own kind. -/
theorem witness_StatusBits :
    nextIs (step (pendingOn .nop State.reset)) (fun t => t.status.done) = true ∧
    nextIs (step (about (.write 0x010 8 0b1111) State.reset)) (fun t => t.status.err) = true ∧
    nextIs (step (about (.write 0x010 0 0b1111) busyState)) (fun t => t.status.cmdOvr) = true ∧
    nextIs (step (about (.read 0x800 1) busyState)) (fun t => t.status.busErr) = true ∧
    nextIs (step (about (.write 0x010 0 0b1111) State.reset)) (fun t => t.pending != none) = true ∧ State.reset.pending = none ∧
    nextIs (step (pendingOn .shaInit State.reset)) (fun t => t.sha.active) = true ∧ State.reset.sha.active = false ∧
    State.reset.status = ⟨false, false, false, false⟩ ∧ busyState.status = ⟨false, false, false, false⟩ := by decide

/-- The two ends of the result registers may be read only while BUSY = 0, an ARG register always (R162). -/
theorem test_dutiful_reads :
    (about (.read 0x034 1) busyState).dutiful = false ∧ (about (.read 0x07C 1) busyState).dutiful = false ∧
    (about (.read 0x038 1) busyState).dutiful = false ∧ (about (.read 0x040 1) busyState).dutiful = false ∧
    (about (.read 0x030 1) busyState).dutiful = true ∧ (about (.read 0x044 1) busyState).dutiful = true ∧
    (about (.read 0x07C 1) State.reset).dutiful = true := by decide

theorem witness_DutifulHost :
    (about (.read 0x030 1) busyState).dutiful = true ∧ (about (.read 0x030 1) busyState).host.script = .read 0x030 1 :: [] ∧
    (about (.read 0x034 1) State.reset).dutiful = true ∧
    (about (.write 0x010 8 0b1111) State.reset).dutiful = true ∧ (about (.read 0xFFC 1) State.reset).dutiful = true ∧
    (about .poll busyState).dutiful = true ∧ (about (.write 0x018 0 0b1111) busyState).dutiful = true ∧
    nextIs (step (about (.write 0x010 8 0b1111) State.reset)) (fun t => t.host.log == [.rejected .illegal]) = true := by decide

theorem witness_ExpectAndPoll :
    let s := { State.reset with host := { State.reset.host with script := [.expect 1 5], vars := [(1, 5)] } }
    s.pending = none ∧ s.host.script = .expect 1 5 :: [] ∧ cellGet s.host.vars 1 = some 5 ∧ cellGet s.host.vars 2 ≠ some 5 ∧
    (about .poll busyState).HostTurn ∧ (about .poll busyState).rstN = true ∧ (about .poll busyState).host.script = .poll :: [] := by
  unfold State.HostTurn
  decide

/-- Words 0 and 1, and two variables that hold the words of a `spad.get` of five bytes. -/
theorem witness_PseudoInstructions :
    (0 : Nat) < (abc.length + 3) / 4 ∧ (1 : Nat) < ((abc ++ abc).length + 3) / 4 ∧ (1 : Nat) < (5 + 3) / 4 ∧
    (∀ k, k < (5 + 3) / 4 → cellGet [(3, (0x64636261 : Word)), (4, 0x00000065)] (3 + k) = some ([0x64636261, 0x00000065].getD k 0)) ∧
    spadGetBytes [(3, 0x64636261), (4, 0x00000065)] 5 3 = [0x61, 0x62, 0x63, 0x64, 0x65] := by decide

theorem witness_ResetPin :
    (busyState.setScript [.resetPin false, .resetPin true]).HostTurn ∧
    (busyState.setScript [.resetPin false, .resetPin true]).host.script = .resetPin false :: .resetPin true :: [] := by
  unfold State.HostTurn
  decide

theorem witness_StepKeepsTheInvariant :
    busyState.Inv ∧ nextIs (step busyState) (fun t => t.pending.isSome) = true := ⟨inv_busyState, by decide⟩

end Sys2Proof.Tests
end

/-! PROOFS. The step of the two agents by whose turn it is (00_scope R16). -/

namespace Sys2Proof.Machine

open Sys2Proof

/-! ### The host's move, by its script -/

theorem hostMove_of_script_nil {s : State} (h : s.host.script = []) : hostMove s = .next s := by simp only [hostMove, h]

theorem hostMove_of_script_cons {s : State} {op : HostOp} {rest : List HostOp} (h : s.host.script = op :: rest) :
    hostMove s = (s.setScript rest).hostOp op := by simp only [hostMove, h]

/-! ### The step, by whose turn it is -/

theorem step_of_engineTurn {s : State} {p : Pending} (hp : s.pending = some p) (hw : s.wait = 0) : step s = exec p.instr s :=
  agentStep_engineTurn hp hw

theorem step_of_idle {s : State} (h : s.pending = none) : step s = hostMove s := by
  rw [step, agentStep_hostTurn (.inl h), busy_of_idle h]
  rfl

/-- With a command pending, the host's move leaves one move less before the completion (log 1). -/
theorem step_of_busy_hostTurn {s : State} (ht : s.HostTurn) (h : s.pending ≠ none) : step s = thenNext (hostMove s) State.tick := by
  obtain ⟨p, hp⟩ := Option.ne_none_iff_exists'.mp h
  rw [step, agentStep_hostTurn ht, busy_of_pending hp]
  rfl

/-- Settles O6: the engine's turn is the case of a pending command with no host move left. -/
theorem stepCompletesThePendingCommand : Obligations.StepCompletesThePendingCommand :=
  fun _ _ hp hw => step_of_engineTurn hp hw

/-- Settles O8, by the script (a next line or none) and by whether a command is pending. -/
theorem stepTakesTheNextHostLine : Obligations.StepTakesTheNextHostLine := by
  intro s ht
  refine ⟨fun op rest hs => ⟨fun idle => ?_, fun busy => ?_⟩, fun hs => ⟨fun idle => ?_, fun busy => ?_⟩⟩
  · rw [step_of_idle idle, hostMove_of_script_cons hs]
  · rw [step_of_busy_hostTurn ht busy, hostMove_of_script_cons hs]
    rfl
  · rw [step_of_idle idle, hostMove_of_script_nil hs]
  · rw [step_of_busy_hostTurn ht busy, hostMove_of_script_nil hs]
    rfl

end Sys2Proof.Machine

/-! PROOFS. The registers at the port (10_state R24 to R44): one reasoning rule for an aligned read and one for an aligned full write below the
scratchpad, and what they give at each offset. -/

namespace Sys2Proof.Machine

open Sys2Proof

/-! ### An aligned access below the scratchpad -/

theorem badAccess_of_register (s : State) {off : BitVec 12} (ha : off.toNat % 4 = 0) (hr : off.toNat < 0x800) : s.badAccess off = false := by
  rw [← Bool.not_eq_true, badAccess_iff]
  omega

theorem isSpad_of_register {off : BitVec 12} (hr : off.toNat < 0x800) : isSpad off = false := by
  rw [← Bool.not_eq_true, isSpad_iff]
  omega

/-- An aligned read below the scratchpad is answered with the value of the register, busy or not. -/
theorem busRead_register (s : State) {off : BitVec 12} (ha : off.toNat % 4 = 0) (hr : off.toNat < 0x800) :
    s.busRead off = { s.respond (s.readReg (regAt off.toNat)) with fresh := s.fresh + 4 } := by
  rw [State.busRead, badAccess_of_register s ha hr, State.readData, isSpad_of_register hr]
  rfl

theorem busRead_register_resp (s : State) {off : BitVec 12} (ha : off.toNat % 4 = 0) (hr : off.toNat < 0x800) :
    (s.busRead off).host.resp = ⟨s.readReg (regAt off.toNat), false⟩ := by
  rw [busRead_register s ha hr]
  rfl

/-- An aligned full write below the scratchpad is the write of its register, busy or not. -/
theorem busWrite_register (s : State) {off : BitVec 12} (d : Word) (ha : off.toNat % 4 = 0) (hr : off.toNat < 0x800) :
    s.busWrite off d 0b1111 = (s.respond 0).writeReg d (regAt off.toNat) := by
  rw [State.busWrite, badAccess_of_register s ha hr, isSpad_of_register hr]
  rfl

/-! ### Operand registers -/

/-- Settles O41: each offset names its register, which is read and written whole. -/
theorem operandRegistersStoreEveryBit : Obligations.OperandRegistersStoreEveryBit := by
  rintro s d h rfl
  refine ⟨?_, ?_, ?_, ?_, ?_, ?_, ?_⟩
  all_goals exact ⟨busWrite_register s d (by decide) (by decide), busRead_register_resp s (by decide) (by decide)⟩

/-! ### STATUS -/

/-- W1C bit by bit: a bit is cleared when its data bit is 1 and stays otherwise (R30). -/
theorem w1c_eq_ite (st : Status) (d : Word) :
    st.w1c d =
      { done := if d.getLsbD 1 then false else st.done
        err := if d.getLsbD 2 then false else st.err
        cmdOvr := if d.getLsbD 3 then false else st.cmdOvr
        busErr := if d.getLsbD 4 then false else st.busErr } := by
  simp [Status.w1c, Bool.and_comm]

/-- Settles O39: a STATUS write is its W1C effect, busy or not. -/
theorem statusWriteClearsTheMarkedBits : Obligations.StatusWriteClearsTheMarkedBits := by
  intro s d
  rw [← w1c_eq_ite]
  exact busWrite_register s d (by decide) (by decide)

/-- STATUS as read is the sum of its bits, BUSY with weight 1 up to SHA_ACTIVE with weight 32 (R29). -/
theorem statusWord_eq_sum (s : State) (active : Bool) :
    s.statusWord active = BitVec.ofNat 32 (s.busy.toNat + 2 * s.status.done.toNat + 4 * s.status.err.toNat + 8 * s.status.cmdOvr.toNat
      + 16 * s.status.busErr.toNat + 32 * active.toNat) := by
  have layout : ∀ a b c d e f : Bool,
      (0#26 ++ BitVec.ofBool a ++ BitVec.ofBool b ++ BitVec.ofBool c ++ BitVec.ofBool d ++ BitVec.ofBool e ++ BitVec.ofBool f :
        BitVec (26 + 1 + 1 + 1 + 1 + 1 + 1))
        = BitVec.ofNat 32 (f.toNat + 2 * e.toNat + 4 * d.toNat + 8 * c.toNat + 16 * b.toNat + 32 * a.toNat) := by decide
  exact layout ..

/-! ### CTRL -/

theorem ctrlOfWord_gw_toNat (d : Word) : (Ctrl.ofWord d).gw.toNat = d.toNat / 256 % 32 := by
  simp [Ctrl.ofWord, Nat.shiftRight_eq_div_pow]

/-- CTRL reads back what was written, the reserved bits 0 (R27). -/
theorem ctrlWord_ofWord (d : Word) : (Ctrl.ofWord d).word = d &&& 0x00001F03 := by
  refine BitVec.eq_of_getLsbD_eq fun i hi => ?_
  unfold Ctrl.word Ctrl.ofWord
  change BitVec.getLsbD (w := 19 + 5 + 6 + 1 + 1) (_ ++ _) i = _
  simp only [BitVec.getLsbD_append, BitVec.getLsbD_and]
  interval_cases i <;> simp

/-- Settles O40: CTRL takes the word's three fields, and its word is the written one with the other bits masked. -/
theorem ctrlWriteStoresItsFields : Obligations.CtrlWriteStoresItsFields := by
  intro s d
  refine ⟨Ctrl.ofWord d, busWrite_register s d (by decide) (by decide), rfl, rfl, ctrlOfWord_gw_toNat d, rfl, ?_⟩
  rw [← ctrlWord_ofWord]
  exact busRead_register_resp _ (by decide) (by decide)

/-! ### Reserved offsets and read-only registers -/

/-- The registers that a write leaves alone: the read-only registers and the reserved offsets (R25, R44). -/
def Reg.ignoresWrites : Reg → Bool
  | .ctrl | .status | .cmd | .argSrc | .argSlen | .argSrc2 | .argS2len | .argDst | .argDlen | .argIter => false
  | _ => true

theorem writeReg_of_ignoresWrites (s : State) (d : Word) {r : Reg} (h : r.ignoresWrites = true) : s.writeReg d r = .next s := by
  cases r with
  | ctrl | status | cmd | argSrc | argSlen | argSrc2 | argS2len | argDst | argDlen | argIter => cases h
  | _ => rfl

theorem busWrite_of_ignoresWrites (s : State) {off : BitVec 12} (d : Word) (ha : off.toNat % 4 = 0) (hr : off.toNat < 0x800)
    (h : (regAt off.toNat).ignoresWrites = true) : s.busWrite off d 0b1111 = .next (s.respond 0) := by
  rw [busWrite_register s d ha hr, writeReg_of_ignoresWrites _ d h]

theorem regAt_reserved {n : Nat} (h : (0x044 ≤ n ∧ n ≤ 0x05C) ∨ (0x080 ≤ n ∧ n ≤ 0x7FF)) : regAt n = .reserved := by
  have noHash : ¬(0x060 ≤ n ∧ n < 0x080) := by omega
  unfold regAt
  split
  case h_18 => exact if_neg noHash
  all_goals omega

/-- Settles O42: reserved offsets name no register, and no read-only register has a write effect. -/
theorem reservedAndReadOnlyOffsetsIgnoreWrites : Obligations.ReservedAndReadOnlyOffsetsIgnoreWrites := by
  intro s off d
  refine ⟨fun ha hoff => ?_, fun hoff => ?_, busRead_register_resp s (by decide) (by decide), busRead_register_resp s (by decide) (by decide)⟩
  · have hr : off.toNat < 0x800 := by omega
    have reserved := regAt_reserved hoff
    refine ⟨?_, busWrite_of_ignoresWrites s d ha hr (by rw [reserved]; rfl)⟩
    rw [busRead_register_resp s ha hr, reserved]
    rfl
  · simp only [List.mem_cons, List.not_mem_nil, or_false] at hoff
    rcases hoff with rfl | rfl | rfl | rfl | rfl | rfl | rfl | rfl | rfl | rfl | rfl | rfl | rfl | rfl | rfl
    all_goals exact busWrite_of_ignoresWrites s d rfl (by decide) rfl

/-! ### Reads while idle, and right after reset -/

theorem resultWord_of_idle {s : State} (h : s.pending = none) (v : Word) : s.resultWord v = v := by
  rw [State.resultWord, busy_of_idle h]
  rfl

theorem readStatus_of_idle {s : State} (h : s.pending = none) : s.readStatus = s.statusWord s.sha.active := by
  rw [State.readStatus, busy_of_idle h]
  rfl

/-- An idle read of a result register is its stored value (R155). -/
theorem busRead_result_of_idle {s : State} (h : s.pending = none) {off : BitVec 12} (v : Word) (ha : off.toNat % 4 = 0)
    (hr : off.toNat < 0x800) (hv : s.readReg (regAt off.toNat) = s.resultWord v) : (s.busRead off).host.resp = ⟨v, false⟩ := by
  rw [busRead_register_resp s ha hr, hv, resultWord_of_idle h]

/-- Settles O43: STATUS is the sum of its bits without BUSY, and no register's read is free. -/
theorem idleRegisterReadsAreExact : Obligations.IdleRegisterReadsAreExact := by
  intro s idle
  refine ⟨?_, busRead_register_resp s (by decide) (by decide), busRead_register_resp s (by decide) (by decide), ?_⟩
  · have hr : (s.busRead 0x00C).host.resp = ⟨s.readStatus, false⟩ := busRead_register_resp s (by decide) (by decide)
    rw [hr, readStatus_of_idle idle, statusWord_eq_sum, busy_of_idle idle, Bool.toNat_false, Nat.zero_add]
  · refine ⟨?_, ?_, ?_, ?_, ?_, ?_, ?_, ?_, ?_, ?_, ?_, ?_⟩
    all_goals exact busRead_result_of_idle idle _ (by decide) (by decide) rfl

/-- Settles O58: the reset state is idle, so each read is that of a stored reset value. -/
theorem resetStateReadsTheTabledValues : Obligations.ResetStateReadsTheTabledValues := by
  refine ⟨rfl, rfl, rfl, rfl, rfl, rfl, rfl, rfl, rfl, rfl, rfl, rfl, rfl, rfl, rfl, rfl, fun off hoff => ?_, rfl, fun _ => rfl⟩
  simp only [List.mem_cons, List.not_mem_nil, or_false] at hoff
  rcases hoff with rfl | rfl | rfl | rfl | rfl | rfl | rfl | rfl
  all_goals rfl

end Sys2Proof.Machine

/-! PROOFS. What one line of the host can do to the block, in three kinds, and what follows for the operand registers, CTRL, STATUS and the
invariant of the machine (10_state R20, R28, R29, R48). -/

namespace Sys2Proof.Machine

open Sys2Proof

/-! ### A CMD write at the head of the script -/

/-- A CMD write of a command's word is exec of the command, at the state with the line taken and the answer err = 0 (R31, R50). -/
theorem hostMove_commandWrite {s : State} {rest : List HostOp} {w : Word} {i : Instr} (hs : s.host.script = .write 0x010 w 0b1111 :: rest)
    (hr : s.rstN = true) (hw : decode w = .ok i) : hostMove s = exec i ((s.setScript rest).respond 0) := by
  rw [hostMove_of_script_cons hs, State.hostOp, State.onBus, State.setScript_rstN, if_pos hr, busWrite_register _ w (by decide) (by decide)]
  change issueWord w _ = _
  rw [issueWord, hw]

/-- Settles O5, by whether a command is pending. -/
theorem stepIssuesTheDecodedCommand : Obligations.StepIssuesTheDecodedCommand := by
  intro s rest w i hs hr hw
  refine ⟨fun idle => ?_, fun busy moves => ?_⟩
  · rw [step_of_idle idle, hostMove_commandWrite hs hr hw]
    rfl
  · rw [step_of_busy_hostTurn (.inr moves) busy, hostMove_commandWrite hs hr hw]
    rfl

/-! ### The three kinds of a host line -/

/-- What a line of the host leaves alone that is neither a CMD write nor a move of the reset pin: it changes CTRL and the operand registers only
by a write to them, the scratchpad only by a write to it, and of STATUS it sets no bit but BUS_ERR, by a bus error; while `rst_n` = 0 it touches
no more than the host. -/
structure State.PlainLine (s u : State) : Prop where
  errcode : u.errcode = s.errcode
  sha : u.sha = s.sha
  pending : u.pending = s.pending
  rstN : u.rstN = s.rstN
  ctrl : u.ctrl ≠ s.ctrl → ∃ d rest, s.host.script = .write 0x008 d 0b1111 :: rest
  args : u.args ≠ s.args → ∃ off d rest, s.host.script = .write off d 0b1111 :: rest ∧ 0x018 ≤ off.toNat ∧ off.toNat ≤ 0x030
  done : u.status.done = true → s.status.done = true
  err : u.status.err = true → s.status.err = true
  cmdOvr : u.status.cmdOvr = true → s.status.cmdOvr = true
  busErr : u.status.busErr = true → s.status.busErr = true ∨ u.host.resp = ⟨0, true⟩
  spad : u.spad = s.spad ∨
    (s.pending = none ∧ ∃ off d rest, s.host.script = .write off d 0b1111 :: rest ∧ 0x800 ≤ off.toNat ∧ off.toNat % 4 = 0 ∧
      u.spad = s.spad.writeBytes (off.toNat - 0x800) (le 4 d.toNat))
  vars : cellsSorted s.host.vars → cellsSorted u.host.vars
  inReset : s.rstN = false → ∃ h, u = { s with host := h }

theorem plainLine_refl (s : State) : s.PlainLine s where
  errcode := rfl
  sha := rfl
  pending := rfl
  rstN := rfl
  ctrl hc := absurd rfl hc
  args ha := absurd rfl ha
  done := id
  err := id
  cmdOvr := id
  busErr := .inl
  spad := .inl rfl
  vars := id
  inReset _ := ⟨s.host, rfl⟩

/-- A move of the host alone. -/
theorem plainLine_of_host (s : State) {h : HostState} (hv : cellsSorted s.host.vars → cellsSorted h.vars) :
    s.PlainLine { s with host := h } :=
  { plainLine_refl s with
    busErr := .inl
    vars := hv
    inReset := fun _ => ⟨h, rfl⟩ }

/-- A transaction whose answer leaves all of the block but BUS_ERR: a read of any kind, and a refused write. -/
theorem plainLine_of_answer {s : State} (hr : s.rstN = true) {b : Bool} {h : HostState} {n : Nat}
    (hb : b = true → s.status.busErr = true ∨ h.resp = ⟨0, true⟩) (hv : cellsSorted s.host.vars → cellsSorted h.vars) :
    s.PlainLine { s with status := { s.status with busErr := b }, host := h, fresh := n } :=
  { plainLine_refl s with
    busErr := hb
    vars := hv
    inReset := fun h0 => absurd hr (ne_true_of_eq_false h0) }

/-- A read into a variable changes BUS_ERR, by a bus error response, and the host, whose variable takes the data. -/
theorem readInto_eq (s : State) (off : BitVec 12) (var : Nat) :
    ∃ (b : Bool) (h : HostState) (n : Nat), s.readInto off var = { s with status := { s.status with busErr := b }, host := h, fresh := n } ∧
      (b = true → s.status.busErr = true ∨ h.resp = ⟨0, true⟩) ∧ h.vars = cellSet s.host.vars var h.resp.data := by
  rcases busRead_cases s off with ⟨-, hr⟩ | ⟨-, hr⟩ <;> rw [State.readInto, hr]
  · exact ⟨_, _, _, rfl, fun _ => .inr rfl, rfl⟩
  · exact ⟨_, _, _, rfl, .inl, rfl⟩

/-- So does a turn of `poll`, with variable 0, whether the line stays or is left. -/
theorem pollStatus_eq (s : State) :
    ∃ (b : Bool) (h : HostState) (n : Nat), s.pollStatus = { s with status := { s.status with busErr := b }, host := h, fresh := n } ∧
      (b = true → s.status.busErr = true ∨ h.resp = ⟨0, true⟩) ∧ h.vars = cellSet s.host.vars 0 h.resp.data := by
  obtain ⟨b, h, n, hu, hb, hv⟩ := readInto_eq s 0x00C 0
  rcases pollStatus_cases s with ⟨-, hp⟩ | ⟨-, hp⟩ <;> rw [hp, hu]
  · exact ⟨b, { h with script := .poll :: s.host.script }, n, rfl, hb, hv⟩
  · exact ⟨b, h, n, rfl, hb, hv⟩

theorem plainLine_readInto {s : State} (hr : s.rstN = true) (rest : List HostOp) (off : BitVec 12) (var : Nat) :
    s.PlainLine ((s.setScript rest).readInto off var) := by
  obtain ⟨b, h, n, hu, hb, hv⟩ := readInto_eq (s.setScript rest) off var
  exact hu ▸ plainLine_of_answer hr hb fun hs => hv ▸ cellSet_sorted _ _ hs

theorem plainLine_pollStatus {s : State} (hr : s.rstN = true) (rest : List HostOp) : s.PlainLine (s.setScript rest).pollStatus := by
  obtain ⟨b, h, n, hu, hb, hv⟩ := pollStatus_eq (s.setScript rest)
  exact hu ▸ plainLine_of_answer hr hb fun hs => hv ▸ cellSet_sorted _ _ hs

theorem plainLine_writeSpad {s : State} {rest : List HostOp} {off : BitVec 12} {d : Word} (hs : s.host.script = .write off d 0b1111 :: rest)
    (hr : s.rstN = true) (idle : s.pending = none) (ha : off.toNat % 4 = 0) (h800 : 0x800 ≤ off.toNat) :
    s.PlainLine (((s.setScript rest).respond 0).writeSpad (off.toNat - 0x800) d) :=
  { plainLine_refl s with
    busErr := .inl
    spad := .inr ⟨idle, off, d, rest, hs, h800, ha, rfl⟩
    inReset := fun h0 => absurd hr (ne_true_of_eq_false h0) }

/-- A write is a plain line, or it writes CMD. -/
theorem plainLine_or_cmd_of_busWrite {s u : State} {rest : List HostOp} {off : BitVec 12} {d : Word} {strb : BitVec 4}
    (hs : s.host.script = .write off d strb :: rest) (hr : s.rstN = true) (h : (s.setScript rest).busWrite off d strb = .next u) :
    s.PlainLine u ∨ (off = 0x010 ∧ strb = 0b1111 ∧ issueWord d ((s.setScript rest).respond 0) = .next u) := by
  rcases busWrite_next h with rfl | ⟨rfl, hbad, h800, idle, rfl⟩ | ⟨hstrb, hoff, hw⟩ |
    ⟨rfl, c, a, st, rfl, hc, ha, hdone, herr, hovr, hbus⟩
  · exact .inl (plainLine_of_answer hr (b := true) (fun _ => .inr rfl) id)
  · have aligned : off.toNat % 4 = 0 := by
      by_contra ha
      exact absurd ((badAccess_iff (s.setScript rest) off).2 (.inl ha)) (by simp [hbad])
    exact .inl (plainLine_writeSpad hs hr idle aligned h800)
  · exact .inr ⟨hoff, hstrb, hw⟩
  · exact .inl
      { plainLine_refl s with
        ctrl := fun h => ⟨d, rest, hc h ▸ hs⟩
        args := fun h => ⟨off, d, rest, hs, ha h⟩
        done := hdone
        err := herr
        cmdOvr := hovr
        busErr := fun h => .inl (hbus h)
        inReset := fun h0 => absurd hr (ne_true_of_eq_false h0) }

/-- A line of the host is a plain one, a CMD write, or a move of the reset pin. -/
theorem hostMove_kinds {s u : State} (h : hostMove s = .next u) :
    s.PlainLine u ∨
      (∃ w rest, s.host.script = .write 0x010 w 0b1111 :: rest ∧ s.rstN = true ∧ issueWord w ((s.setScript rest).respond 0) = .next u) ∨
      ∃ level rest, s.host.script = .resetPin level :: rest ∧ u = (s.setScript rest).drivePin level := by
  rcases hostMove_cases h with ⟨-, rfl⟩ | ⟨rest, ⟨off, d, strb, hs, hr, hw⟩ | ⟨off, var, -, hr, rfl⟩ | ⟨-, hr, rfl⟩ | ⟨var, v, -, rfl⟩ |
    ⟨level, hs, hu⟩⟩
  · exact .inl (plainLine_of_host u id)
  · rcases plainLine_or_cmd_of_busWrite hs hr hw with hp | ⟨rfl, rfl, hw⟩
    · exact .inl hp
    · exact .inr (.inl ⟨d, rest, hs, hr, hw⟩)
  · exact .inl (plainLine_readInto hr rest off var)
  · exact .inl (plainLine_pollStatus hr rest)
  · split
    · exact .inl (plainLine_of_host s id)
    · exact .inl (plainLine_of_host s id)
  · exact .inr (.inr ⟨level, rest, hs, hu⟩)

/-- What a CMD write did, in the host's turn: the command was dropped, its word rejected, or the command accepted, each at the state with the
line taken and the answer err = 0. -/
theorem commandWrite_kinds {s u : State} {w : Word} {rest : List HostOp} (ht : s.HostTurn)
    (h : issueWord w ((s.setScript rest).respond 0) = .next u) :
    (s.pending ≠ none ∧ u = ((s.setScript rest).respond 0).dropCommand) ∨
      (s.pending = none ∧ ∃ code, code ≠ .noError ∧
        (∀ i, decode w = .ok i → rejection i ⟨s.args, s.ctrl.gw, s.ctrl.packTrunc⟩ s.sha ≠ none) ∧
        u = ((s.setScript rest).respond 0).accepting.raiseError code) ∨
      (s.pending = none ∧ ∃ i, decode w = .ok i ∧ rejection i ⟨s.args, s.ctrl.gw, s.ctrl.packTrunc⟩ s.sha = none ∧
        u = ((s.setScript rest).respond 0).accepting.start i ⟨s.args, s.ctrl.gw, s.ctrl.packTrunc⟩) := by
  have hl : ((s.setScript rest).respond 0).latch = ⟨s.args, s.ctrl.gw, s.ctrl.packTrunc⟩ := rfl
  rcases issueWord_hostTurn (s := (s.setScript rest).respond 0) ht h with ⟨hb, rfl⟩ | ⟨hb, ⟨code, hc, hw, rfl⟩ | ⟨i, hi, hc, rfl⟩⟩
  · exact .inl ⟨by simpa [State.busy, Option.isSome_iff_ne_none] using hb, rfl⟩
  · simp only [firstError_checkRow, hl] at hw
    exact .inr (.inl ⟨(idle_iff _).1 hb, code, hc, hw, rfl⟩)
  · rw [firstError_checkRow, hl] at hc
    exact .inr (.inr ⟨(idle_iff _).1 hb, i, hi, hc, rfl⟩)

/-- The reset pin driven high while it is high changes nothing; else the block takes its reset values. -/
theorem drivePin_cases (s : State) (level : Bool) :
    (s.rstN = true ∧ s.drivePin level = s) ∨ s.drivePin level = { s.resetBlock with rstN := level } := by
  cases level <;> cases hr : s.rstN <;> simp [State.drivePin, hr]

/-- A step is the completion step of the pending command, or a line of the host, after which only the model's count of moves may differ. -/
theorem step_kinds {s t : State} (h : step s = .next t) :
    (∃ p, s.pending = some p ∧ s.wait = 0 ∧ rejection p.instr p.l s.sha = none ∧ t = (effectOf p.instr p.l s).completed) ∨
      (s.HostTurn ∧ ∃ (u : State) (n : Nat), hostMove s = .next u ∧ t = { u with wait := n }) := by
  rcases step_cases h with ⟨p, hp, hw, hc, rfl⟩ | ⟨ht, u, hu, rfl⟩
  · exact .inl ⟨p, hp, hw, by rwa [← firstError_checkRow], rfl⟩
  · refine .inr ⟨ht, u, if s.busy then u.wait - 1 else u.wait, hu, ?_⟩
    cases s.busy <;> rfl

/-! ### Who writes the operand registers and CTRL -/

/-- No command writes an operand register or CTRL, neither at its CMD write nor at its completion. -/
theorem exec_args_ctrl {i : Instr} {s t : State} (h : exec i s = .next t) : t.args = s.args ∧ t.ctrl = s.ctrl := by
  rcases exec_cases i s with ⟨-, he⟩ | ⟨p, -, -, -, he⟩ | ⟨p, -, -, -, he⟩ <;> rw [he] at h <;> cases h
  · rcases issue_cases s i (checkRow i) with ⟨-, hi⟩ | ⟨-, code, -, hi⟩ | ⟨-, -, hi⟩ <;> simp [hi]
  · simp

/-- Nor does the write of any word to CMD. -/
theorem issueWord_args_ctrl {w : Word} {s t : State} (h : issueWord w s = .next t) : t.args = s.args ∧ t.ctrl = s.ctrl := by
  rcases issueWord_cases w s with ⟨e, -, hw⟩ | ⟨i, -, hw⟩ <;> rw [hw] at h
  · cases h
    rcases issueIllegal_cases s with ⟨-, hi⟩ | ⟨-, hi⟩ <;> simp [hi]
  · exact exec_args_ctrl h

theorem args_change_cause {s t : State} (h : step s = .next t) (ha : t.args ≠ s.args) :
    (∃ off d rest, s.host.script = .write off d 0b1111 :: rest ∧ 0x018 ≤ off.toNat ∧ off.toNat ≤ 0x030) ∨
      ∃ level rest, s.host.script = .resetPin level :: rest := by
  rcases step_kinds h with ⟨p, -, -, -, rfl⟩ | ⟨-, u, n, hu, rfl⟩
  · exact absurd (by simp) ha
  · rcases hostMove_kinds hu with hp | ⟨w, rest, -, -, hw⟩ | ⟨level, rest, hs, -⟩
    · exact .inl (hp.args ha)
    · exact absurd (issueWord_args_ctrl hw).1 ha
    · exact .inr ⟨level, rest, hs⟩

theorem ctrl_change_cause {s t : State} (h : step s = .next t) (hc : t.ctrl ≠ s.ctrl) :
    (∃ d rest, s.host.script = .write 0x008 d 0b1111 :: rest) ∨ ∃ level rest, s.host.script = .resetPin level :: rest := by
  rcases step_kinds h with ⟨p, -, -, -, rfl⟩ | ⟨-, u, n, hu, rfl⟩
  · exact absurd (by simp) hc
  · rcases hostMove_kinds hu with hp | ⟨w, rest, -, -, hw⟩ | ⟨level, rest, hs, -⟩
    · exact .inl (hp.ctrl hc)
    · exact absurd (issueWord_args_ctrl hw).2 hc
    · exact .inr ⟨level, rest, hs⟩

/-- Settles O51: commands touch neither, and of the host's lines only a write to the register or a move of the pin does. -/
theorem onlyTheHostWritesOperandRegisters : Obligations.OnlyTheHostWritesOperandRegisters :=
  ⟨fun _ _ _ => exec_args_ctrl, fun _ _ h => ⟨args_change_cause h, ctrl_change_cause h⟩⟩

/-! ### What sets each STATUS bit -/

/-- A bit that the reset values hold clear is not set by the reset pin. -/
theorem drivePin_keeps_clear {s : State} (bit : State → Bool) (level : Bool) (hs : bit s = false)
    (hr : bit { s.resetBlock with rstN := level } = false) : bit (s.drivePin level) = false := by
  rcases drivePin_cases s level with ⟨-, he⟩ | he <;> rwa [he]

theorem busy_set_cause {s t : State} (h : step s = .next t) (idle : s.pending = none) (busy : t.pending ≠ none) :
    ∃ w rest i, s.host.script = .write 0x010 w 0b1111 :: rest ∧ decode w = .ok i ∧
      rejection i ⟨s.args, s.ctrl.gw, s.ctrl.packTrunc⟩ s.sha = none := by
  rcases step_kinds h with ⟨p, hp, -, -, -⟩ | ⟨ht, u, n, hu, rfl⟩
  · simp [idle] at hp
  · rcases hostMove_kinds hu with hp | ⟨w, rest, hs, -, hw⟩ | ⟨level, rest, -, rfl⟩
    · exact absurd (hp.pending.trans idle) busy
    · rcases commandWrite_kinds ht hw with ⟨hb, -⟩ | ⟨-, code, -, -, rfl⟩ | ⟨-, i, hi, hc, -⟩
      · exact absurd idle hb
      · exact absurd idle busy
      · exact ⟨w, rest, i, hs, hi, hc⟩
    · exact absurd ((idle_iff _).1 (drivePin_keeps_clear State.busy level (busy_of_idle (s := s.setScript rest) idle) rfl)) busy

theorem done_set_cause {s t : State} (h : step s = .next t) (clear : s.status.done = false) (set : t.status.done = true) :
    ∃ p, s.pending = some p ∧ s.wait = 0 := by
  rcases step_kinds h with ⟨p, hp, hw, -, -⟩ | ⟨ht, u, n, hu, rfl⟩
  · exact ⟨p, hp, hw⟩
  · refine absurd set (ne_true_of_eq_false ?_)
    rcases hostMove_kinds hu with hp | ⟨w, rest, -, -, hw⟩ | ⟨level, rest, -, rfl⟩
    · exact eq_false_of_ne_true (mt hp.done (ne_true_of_eq_false clear))
    · rcases commandWrite_kinds ht hw with ⟨-, rfl⟩ | ⟨-, code, -, -, rfl⟩ | ⟨-, i, -, -, rfl⟩
      · exact clear
      · rfl
      · rfl
    · exact drivePin_keeps_clear (fun u => u.status.done) level clear rfl

theorem err_set_cause {s t : State} (h : step s = .next t) (clear : s.status.err = false) (set : t.status.err = true) :
    s.pending = none ∧ ∃ w rest, s.host.script = .write 0x010 w 0b1111 :: rest ∧
      ∀ i, decode w = .ok i → rejection i ⟨s.args, s.ctrl.gw, s.ctrl.packTrunc⟩ s.sha ≠ none := by
  have kept (h : t.status.err = s.status.err) : False := by simp [h, clear] at set
  rcases step_kinds h with ⟨p, -, -, -, rfl⟩ | ⟨ht, u, n, hu, rfl⟩
  · exact (kept (by simp)).elim
  · rcases hostMove_kinds hu with hp | ⟨w, rest, hs, -, hw⟩ | ⟨level, rest, -, rfl⟩
    · exact absurd (hp.err set) (ne_true_of_eq_false clear)
    · rcases commandWrite_kinds ht hw with ⟨-, rfl⟩ | ⟨idle, code, -, hrej, -⟩ | ⟨-, i, -, -, rfl⟩
      · exact (kept rfl).elim
      · exact ⟨idle, w, rest, hs, hrej⟩
      · cases set
    · exact absurd set (ne_true_of_eq_false (drivePin_keeps_clear (fun u => u.status.err) level clear rfl))

theorem cmdOvr_set_cause {s t : State} (h : step s = .next t) (clear : s.status.cmdOvr = false) (set : t.status.cmdOvr = true) :
    s.pending ≠ none ∧ ∃ w rest, s.host.script = .write 0x010 w 0b1111 :: rest := by
  have kept (h : t.status.cmdOvr = s.status.cmdOvr) : False := by simp [h, clear] at set
  rcases step_kinds h with ⟨p, -, -, -, rfl⟩ | ⟨ht, u, n, hu, rfl⟩
  · exact (kept (by simp)).elim
  · rcases hostMove_kinds hu with hp | ⟨w, rest, hs, -, hw⟩ | ⟨level, rest, -, rfl⟩
    · exact absurd (hp.cmdOvr set) (ne_true_of_eq_false clear)
    · rcases commandWrite_kinds ht hw with ⟨busy, -⟩ | ⟨-, code, -, -, rfl⟩ | ⟨-, i, -, -, rfl⟩
      · exact ⟨busy, w, rest, hs⟩
      · exact (kept rfl).elim
      · exact (kept rfl).elim
    · exact absurd set (ne_true_of_eq_false (drivePin_keeps_clear (fun u => u.status.cmdOvr) level clear rfl))

theorem busErr_set_cause {s t : State} (h : step s = .next t) (clear : s.status.busErr = false) (set : t.status.busErr = true) :
    t.host.resp = ⟨0, true⟩ := by
  have kept (h : t.status.busErr = s.status.busErr) : False := by simp [h, clear] at set
  rcases step_kinds h with ⟨p, -, -, -, rfl⟩ | ⟨ht, u, n, hu, rfl⟩
  · exact (kept (by simp)).elim
  · rcases hostMove_kinds hu with hp | ⟨w, rest, -, -, hw⟩ | ⟨level, rest, -, rfl⟩
    · exact (hp.busErr set).resolve_left (ne_true_of_eq_false clear)
    · rcases commandWrite_kinds ht hw with ⟨-, rfl⟩ | ⟨-, code, -, -, rfl⟩ | ⟨-, i, -, -, rfl⟩ <;> exact (kept rfl).elim
    · exact absurd set (ne_true_of_eq_false (drivePin_keeps_clear (fun u => u.status.busErr) level clear rfl))

theorem shaActive_set_cause {s t : State} (h : step s = .next t) (clear : s.sha.active = false) (set : t.sha.active = true) :
    ∃ l, s.pending = some ⟨.shaInit, l⟩ ∧ s.wait = 0 := by
  have kept (h : t.sha = s.sha) : False := by simp [h, clear] at set
  rcases step_kinds h with ⟨⟨i, l⟩, hp, hw, -, rfl⟩ | ⟨ht, u, n, hu, rfl⟩
  · rcases effectOf_active set with active | rfl
    · exact absurd active (ne_true_of_eq_false clear)
    · exact ⟨l, hp, hw⟩
  · rcases hostMove_kinds hu with hp | ⟨w, rest, -, -, hw⟩ | ⟨level, rest, -, rfl⟩
    · exact (kept hp.sha).elim
    · rcases commandWrite_kinds ht hw with ⟨-, rfl⟩ | ⟨-, code, -, -, rfl⟩ | ⟨-, i, -, -, rfl⟩ <;> exact (kept rfl).elim
    · exact absurd set (ne_true_of_eq_false (drivePin_keeps_clear (fun u => u.sha.active) level clear rfl))

/-- Settles O53, one lemma a bit. -/
theorem statusBitsAreSetOnlyByTheirCauses : Obligations.StatusBitsAreSetOnlyByTheirCauses :=
  fun _ _ h => ⟨busy_set_cause h, done_set_cause h, err_set_cause h, cmdOvr_set_cause h, busErr_set_cause h, shaActive_set_cause h⟩

/-! ### The invariant -/

theorem shaInv_closed (h : Hash 32) {len : BitVec 64} (hl : len.toNat ≤ Config.shaMaxLen) : (shaClosed h len).Inv :=
  ⟨hl, nofun, fun _ => rfl⟩

theorem setWidth_le_shaMaxLen (n : Word) : (n.setWidth 64).toNat ≤ Config.shaMaxLen := by
  have := n.isLt
  simp only [BitVec.toNat_setWidth, Config.shaMaxLen]
  omega

/-- The operands of an accepted SHA256.UPDATE: a stream is open, and its length stays below 2^61 (R79). -/
theorem shaUpdate_accepted {l : Latched} {sha : ShaState} (h : rejection .shaUpdate l sha = none) :
    sha.active = true ∧ sha.len.toNat + l.slen.toNat ≤ Config.shaMaxLen := by
  rw [← firstError_checkRow, checkRow, rowShaUpdate] at h
  simp only [firstError_cons_eq_none, Bool.not_eq_false', decide_eq_false_iff_not, not_lt, gt_iff_lt] at h
  obtain ⟨hopen, -, hlen, -⟩ := h
  exact ⟨hopen, hlen⟩

/-- SHA256.UPDATE keeps `|buf| = len mod 64` of an open stream (R99, R101). -/
theorem shaInv_update {l : Latched} {s : State} (h : s.sha.Inv) (hc : rejection .shaUpdate l s.sha = none) : (effectShaUpdate l s).sha.Inv := by
  obtain ⟨active, fits⟩ := shaUpdate_accepted hc
  obtain ⟨-, hbuf, -⟩ := h
  have hlen : (s.sha.len + l.slen.setWidth 64).toNat = s.sha.len.toNat + l.slen.toNat := by
    have := l.slen.isLt
    rw [Config.shaMaxLen] at fits
    rw [BitVec.toNat_add, BitVec.toNat_setWidth]
    omega
  rw [effectShaUpdate_sha]
  refine ⟨hlen ▸ fits, fun _ => ?_, fun closed => by simp [active] at closed⟩
  simp only [hlen, List.length_drop, State.updateText, List.length_append, memRead_length, hbuf active]
  omega

/-- The completion of a command whose checks pass keeps the invariant of the SHA-256 engine. -/
theorem shaInv_effectOf {i : Instr} {l : Latched} {s : State} (h : s.sha.Inv) (hc : rejection i l s.sha = none) :
    (effectOf i l s).sha.Inv := by
  cases i with
  | shaInit => exact ⟨Nat.zero_le _, fun _ => rfl, nofun⟩
  | shaUpdate => exact shaInv_update h hc
  | shaFinal =>
    rw [effectOf, effectShaFinal_sha]
    exact shaInv_closed _ h.1
  | sha256 =>
    rw [effectOf, effectSha256_sha]
    exact shaInv_closed _ (setWidth_le_shaMaxLen _)
  | cksumAppend =>
    rw [effectOf, effectCksumAppend_sha]
    exact shaInv_closed _ (setWidth_le_shaMaxLen _)
  | nop | pack | pbkdf2 | pbkdf2M => exact h

/-- The reset values keep the invariant, at either level of the pin. -/
theorem inv_resetBlock {s : State} (hv : cellsSorted s.host.vars) (level : Bool) : State.Inv { s.resetBlock with rstN := level } where
  spad := wf_reset
  vars := hv
  sha := ⟨Nat.zero_le _, nofun, fun _ => rfl⟩
  pending := nofun
  report := ⟨nofun, nofun⟩
  reset _ := rfl

/-- Settles O59: the state after reset holds the reset values. -/
theorem resetStateKeepsTheInvariant : Obligations.ResetStateKeepsTheInvariant :=
  inv_resetBlock (s := State.reset) List.Pairwise.nil true

theorem inv_drivePin {s : State} (h : s.Inv) (level : Bool) : (s.drivePin level).Inv := by
  rcases drivePin_cases s level with ⟨-, he⟩ | he <;> rw [he]
  · exact h
  · exact inv_resetBlock h.vars level

/-- While `rst_n` = 0 there is no move left to count. -/
theorem inv_tick {s : State} (h : s.Inv) : s.tick.Inv :=
  { h with
    reset := fun hr =>
      calc s.tick.resetBlock = s.resetBlock.tick := rfl
        _ = s.tick := by rw [h.reset hr] }

theorem inv_host {s : State} (h : s.Inv) {host : HostState} (hv : cellsSorted host.vars) : State.Inv { s with host := host } :=
  { h with
    vars := hv
    reset := fun hr =>
      calc State.resetBlock { s with host := host } = { s.resetBlock with host := host } := rfl
        _ = { s with host := host } := by rw [h.reset hr] }

theorem wf_plainLine {s u : State} (h : s.spad.wf) (hp : s.PlainLine u) : u.spad.wf := by
  rcases hp.spad with he | ⟨-, off, d, rest, -, h800, ha, he⟩ <;> rw [he]
  · exact h
  · have := off.isLt
    exact wf_writeBytes h (by rw [le_length, Config.spadSize]; omega)

theorem inv_plainLine {s u : State} (h : s.Inv) (hp : s.PlainLine u) : u.Inv where
  spad := wf_plainLine h.spad hp
  vars := hp.vars h.vars
  sha := hp.sha ▸ h.sha
  pending p hpend := by
    obtain ⟨hc, hdone, herr, hcode⟩ := h.pending p (hp.pending ▸ hpend)
    exact ⟨hp.sha ▸ hc, eq_false_of_ne_true (mt hp.done (ne_true_of_eq_false hdone)),
      eq_false_of_ne_true (mt hp.err (ne_true_of_eq_false herr)), hp.errcode ▸ hcode⟩
  report := by
    obtain ⟨hdone, herr⟩ := h.report
    refine ⟨fun hd => ?_, fun he => hp.errcode ▸ herr (hp.err he)⟩
    obtain ⟨he, hcode⟩ := hdone (hp.done hd)
    exact ⟨eq_false_of_ne_true (mt hp.err (ne_true_of_eq_false he)), hp.errcode ▸ hcode⟩
  reset hr := by
    obtain ⟨host, rfl⟩ := hp.inReset (hp.rstN ▸ hr)
    exact (inv_host h (hp.vars h.vars)).reset hr

theorem inv_dropCommand {s : State} (h : s.Inv) (hr : s.rstN = true) : s.dropCommand.Inv :=
  { h with reset := fun h0 => absurd hr (ne_true_of_eq_false h0) }

theorem inv_rejected {s : State} (h : s.Inv) (hr : s.rstN = true) (idle : s.pending = none) {code : ErrCode} (hc : code ≠ .noError) :
    (s.accepting.raiseError code).Inv :=
  { h with
    pending := fun p hp => by simp [idle] at hp
    report := ⟨nofun, fun _ => hc⟩
    reset := fun h0 => absurd hr (ne_true_of_eq_false h0) }

theorem inv_accepted {s : State} (h : s.Inv) (hr : s.rstN = true) {i : Instr} {l : Latched} (hc : rejection i l s.sha = none) :
    (s.accepting.start i l).Inv :=
  { h with
    pending := fun p hp => by
      cases hp
      exact ⟨hc, rfl, rfl, rfl⟩
    report := ⟨nofun, nofun⟩
    reset := fun h0 => absurd hr (ne_true_of_eq_false h0) }

theorem inv_commandWrite {s u : State} {w : Word} {rest : List HostOp} (h : s.Inv) (ht : s.HostTurn) (hr : s.rstN = true)
    (hw : issueWord w ((s.setScript rest).respond 0) = .next u) : u.Inv := by
  have taken : ((s.setScript rest).respond 0).Inv := inv_host h h.vars
  rcases commandWrite_kinds ht hw with ⟨-, rfl⟩ | ⟨idle, code, hc, -, rfl⟩ | ⟨-, i, -, hc, rfl⟩
  · exact inv_dropCommand taken hr
  · exact inv_rejected taken hr idle hc
  · exact inv_accepted taken hr hc

theorem inv_hostMove {s u : State} (h : s.Inv) (ht : s.HostTurn) (hu : hostMove s = .next u) : u.Inv := by
  rcases hostMove_kinds hu with hp | ⟨w, rest, -, hr, hw⟩ | ⟨level, rest, -, rfl⟩
  · exact inv_plainLine h hp
  · exact inv_commandWrite h ht hr hw
  · have taken : (s.setScript rest).Inv := inv_host h h.vars
    exact inv_drivePin taken level

/-- The completion of the pending command: its operands pass the checks, and its acceptance left ERR and ERRCODE clear (R75, R78). -/
theorem inv_completed {s : State} (h : s.Inv) {p : Pending} (hp : s.pending = some p) : (effectOf p.instr p.l s).completed.Inv := by
  obtain ⟨hc, -, herr, hcode⟩ := h.pending p hp
  exact
    { spad := wf_effectOf h.spad (by rwa [firstError_checkRow])
      vars := by simpa using h.vars
      sha := shaInv_effectOf h.sha hc
      pending := nofun
      report := ⟨fun _ => by simp [herr, hcode], fun he => by simp [herr] at he⟩
      reset := fun hr => by
        have idle : s.pending = none := congrArg State.pending (h.reset (by simpa using hr)).symm
        simp [idle] at hp }

/-- Settles O60, by whose turn it is: the engine completes the pending command, or the host makes a move. -/
theorem stepKeepsTheInvariant : Obligations.StepKeepsTheInvariant := by
  intro s t h hstep
  rcases step_cases hstep with ⟨p, hp, -, -, rfl⟩ | ⟨ht, u, hu, rfl⟩
  · exact inv_completed h hp
  · have hinv := inv_hostMove h ht hu
    split
    · exact inv_tick hinv
    · exact hinv

end Sys2Proof.Machine

/-! PROOFS. The scratchpad at the port (20_memory R51 to R59): the words of the window, which accesses get a bus error, and what a read and a
step leave alone. -/

namespace Sys2Proof.Machine

open Sys2Proof

/-! ### The window -/

theorem hcBase_mod : Config.hcBase % 4096 = 0 := Nat.mul_mod_right ..

/-- An address has the offset it lies above HC_BASE (R51). -/
theorem windowOffset_eq_some_iff (addr : Nat) (off : BitVec 12) : windowOffset addr = some off ↔ addr = Config.hcBase + off.toNat := by
  have hoff := off.isLt
  rw [windowOffset]
  split
  · rename_i inside
    rw [Option.some.injEq, ← BitVec.toNat_inj, BitVec.toNat_ofNat]
    omega
  · simp only [reduceCtorEq, false_iff]
    omega

theorem windowOffset_eq_none_iff (addr : Nat) :
    windowOffset addr = none ↔ addr < Config.hcBase ∨ Config.hcBase + 0xFFF < addr := by
  rw [windowOffset, ite_eq_right_iff]
  simp only [reduceCtorEq, imp_false]
  omega

/-- Settles O46: HC_BASE is a whole number of windows, so the offset is what is left of the address modulo 4096. -/
theorem windowOffsetIsTheLowTwelveBits : Obligations.WindowOffsetIsTheLowTwelveBits := by
  refine ⟨hcBase_mod, fun addr => ⟨windowOffset_eq_some_iff addr, fun off h => ?_, windowOffset_eq_none_iff addr⟩⟩
  have hoff := off.isLt
  have hbase := hcBase_mod
  rw [(windowOffset_eq_some_iff addr off).1 h]
  omega

/-! ### Bus errors -/

/-- The three conditions of a refused write (R52, R56). -/
theorem refusedWrite_iff (s : State) (off : BitVec 12) (strb : BitVec 4) :
    (s.badAccess off || strb != 0b1111) = true ↔ off.toNat % 4 ≠ 0 ∨ strb ≠ 0b1111 ∨ (0x800 ≤ off.toNat ∧ s.pending ≠ none) := by
  rw [Bool.or_eq_true, badAccess_iff, bne_iff_ne]
  tauto

/-- No command touches the answer to the transaction or BUS_ERR, neither at its CMD write nor at its completion. -/
theorem exec_resp_busErr {i : Instr} {s t : State} (h : exec i s = .next t) :
    t.host.resp = s.host.resp ∧ t.status.busErr = s.status.busErr := by
  rcases exec_cases i s with ⟨-, he⟩ | ⟨p, -, -, -, he⟩ | ⟨p, -, -, -, he⟩ <;> rw [he] at h <;> cases h
  · rcases issue_cases s i (checkRow i) with ⟨-, hi⟩ | ⟨-, code, -, hi⟩ | ⟨-, -, hi⟩ <;> simp [hi]
  · simp

theorem issueWord_resp_busErr {w : Word} {s t : State} (h : issueWord w s = .next t) :
    t.host.resp = s.host.resp ∧ t.status.busErr = s.status.busErr := by
  rcases issueWord_cases w s with ⟨e, -, hw⟩ | ⟨i, -, hw⟩ <;> rw [hw] at h
  · cases h
    rcases issueIllegal_cases s with ⟨-, hi⟩ | ⟨-, hi⟩ <;> simp [hi]
  · exact exec_resp_busErr h

/-- A register write leaves the answer and never sets BUS_ERR: STATUS clears bits, CMD issues a word, the others touch neither. -/
theorem writeReg_resp_busErr {s t : State} {d : Word} {r : Reg} (h : s.writeReg d r = .next t) :
    t.host.resp = s.host.resp ∧ (t.status.busErr = true → s.status.busErr = true) := by
  cases r with
  | status =>
    cases h
    exact ⟨rfl, fun set => (Bool.and_eq_true_iff.1 set).1⟩
  | cmd =>
    obtain ⟨hresp, hbus⟩ := issueWord_resp_busErr h
    exact ⟨hresp, fun set => hbus ▸ set⟩
  | _ =>
    cases h
    exact ⟨rfl, id⟩

/-- A write that is not refused is answered without error and sets no BUS_ERR. -/
theorem busWrite_admitted {s t : State} {off : BitVec 12} {d : Word} {strb : BitVec 4} (hb : (s.badAccess off || strb != 0b1111) = false)
    (h : s.busWrite off d strb = .next t) : t.host.resp = ⟨0, false⟩ ∧ (t.status.busErr = true → s.status.busErr = true) := by
  rcases busWrite_cases s off d strb with ⟨hb', -⟩ | ⟨-, -, hw⟩ | ⟨-, -, hw⟩
  · exact absurd hb' (ne_true_of_eq_false hb)
  · cases hw.symm.trans h
    exact ⟨rfl, id⟩
  · exact writeReg_resp_busErr (hw.symm.trans h)

/-- Settles O36: the port refuses an access by the conditions of R52 and R56, and an admitted one raises no bus error. -/
theorem busErrorsAreExactlyTheBadAccesses : Obligations.BusErrorsAreExactlyTheBadAccesses := by
  rintro s off d strb e rfl
  rw [← refusedWrite_iff, ← badAccess_iff, Bool.not_eq_true, Bool.not_eq_true]
  refine ⟨fun bad => ?_, fun good t h => busWrite_admitted good h, fun bad => ?_, fun good => ?_⟩
  · rw [State.busWrite, if_pos bad]
    rfl
  · rw [State.busRead, if_pos bad]
    rfl
  · rw [State.busRead, if_neg (ne_true_of_eq_false good)]
    exact ⟨rfl, rfl⟩

/-! ### What a read leaves alone -/

/-- Settles O45: a refused read sets BUS_ERR and is answered with an error, an admitted one does neither. -/
theorem readsLeaveTheBlockAlone : Obligations.ReadsLeaveTheBlockAlone := by
  intro s off
  rcases busRead_cases s off with ⟨-, hr⟩ | ⟨-, hr⟩ <;> rw [hr]
  · exact ⟨true, s.raiseBusError.host, s.fresh, rfl, ⟨fun _ => .inr rfl, fun _ => rfl⟩, rfl, rfl, rfl⟩
  · refine ⟨s.status.busErr, (s.respond (s.readData off)).host, s.fresh + 4, rfl, ⟨.inl, ?_⟩, rfl, rfl, rfl⟩
    rintro (set | err)
    · exact set
    · cases err

/-! ### Words of the scratchpad -/

theorem toNat_wordOffset {j : Nat} (hj : j < 512) : (BitVec.ofNat 12 (0x800 + 4 * j)).toNat = 0x800 + 4 * j := by
  rw [BitVec.toNat_ofNat]
  omega

theorem isSpad_wordOffset {j : Nat} (hj : j < 512) : isSpad (BitVec.ofNat 12 (0x800 + 4 * j)) = true := by
  rw [isSpad_iff, toNat_wordOffset hj]
  omega

theorem badAccess_wordOffset {s : State} (idle : s.pending = none) {j : Nat} (hj : j < 512) :
    s.badAccess (BitVec.ofNat 12 (0x800 + 4 * j)) = false := by
  rw [← Bool.not_eq_true, badAccess_iff, toNat_wordOffset hj]
  rintro (misaligned | ⟨-, busy⟩)
  · omega
  · exact busy idle

/-- An idle read of word j is answered with the four bytes from 4j (R53). -/
theorem busRead_word {s : State} (idle : s.pending = none) {j : Nat} (hj : j < 512) :
    s.busRead (BitVec.ofNat 12 (0x800 + 4 * j)) = { s.respond (s.readSpad (4 * j)) with fresh := s.fresh + 4 } := by
  rw [State.busRead, badAccess_wordOffset idle hj, State.readData, isSpad_wordOffset hj, toNat_wordOffset hj, Nat.add_sub_cancel_left]
  rfl

theorem busRead_word_resp {s : State} (idle : s.pending = none) {j : Nat} (hj : j < 512) :
    (s.busRead (BitVec.ofNat 12 (0x800 + 4 * j))).host.resp = ⟨s.readSpad (4 * j), false⟩ := by
  rw [busRead_word idle hj]
  rfl

/-- An idle full write of word j stores LE_4 of the data at 4j (R53). -/
theorem busWrite_word {s : State} (idle : s.pending = none) {j : Nat} (hj : j < 512) (d : Word) :
    s.busWrite (BitVec.ofNat 12 (0x800 + 4 * j)) d 0b1111 = .next ((s.respond 0).writeSpad (4 * j) d) := by
  rw [State.busWrite, badAccess_wordOffset idle hj, isSpad_wordOffset hj, toNat_wordOffset hj, Nat.add_sub_cancel_left]
  rfl

theorem extractLsb'_byte {w : Nat} (x : BitVec w) (i : Nat) : x.extractLsb' (8 * i) 8 = BitVec.ofNat 8 (x.toNat / 256 ^ i) := by
  rw [BitVec.extractLsb', Nat.shiftRight_eq_div_pow, Nat.pow_mul]

theorem readSpad_of_holds {s : State} {a : Nat} {x : List Byte} (h : s.spad.Holds a x) (hx : x.length = 4) :
    s.readSpad a = BitVec.ofNat 32 (ofLe x) := by
  rw [State.readSpad, ← hx, memRead_of_holds h]

theorem busRead_word_of_holds_le {s : State} (idle : s.pending = none) {j : Nat} (hj : j < 512) {d : Word}
    (h : s.spad.Holds (4 * j) (le 4 d.toNat)) : (s.busRead (BitVec.ofNat 12 (0x800 + 4 * j))).host.resp = ⟨d, false⟩ := by
  have small : d.toNat < 256 ^ 4 := d.isLt
  rw [busRead_word_resp idle hj, readSpad_of_holds h (le_length ..), ofLe_le, Nat.mod_eq_of_lt small, BitVec.ofNat_toNat,
    BitVec.setWidth_eq]

/-- Settles O37: the written word stands in memory as its LE_4, and a read inverts LE_4. -/
theorem spadWordsAreLittleEndian : Obligations.SpadWordsAreLittleEndian := by
  intro s j idle hj
  refine ⟨fun d => ?_, fun b0 b1 b2 b3 held => ?_⟩
  · have held := holds_writeBytes s.spad (4 * j) (le 4 d.toNat)
    refine ⟨s.spad.writeBytes (4 * j) (le 4 d.toNat), busWrite_word idle hj d, fun i hi => ?_, fun a ha => ?_, ?_⟩
    · rw [extractLsb'_byte, held i (by rwa [le_length]), le_getElem]
    · exact byte_writeBytes_outside (by rwa [le_length])
    · exact busRead_word_of_holds_le (s := { s with spad := s.spad.writeBytes (4 * j) (le 4 d.toNat) }) idle hj held
  · have sum : ofLe [b0, b1, b2, b3] = b0.toNat + 2 ^ 8 * b1.toNat + 2 ^ 16 * b2.toNat + 2 ^ 24 * b3.toNat := by
      simp only [ofLe]
      ring
    rw [busRead_word_resp idle hj, readSpad_of_holds held rfl, sum]

/-- Lane i of a word is the byte at its address, or a free value of its own where that is unwritten (R57; logs 2 and 3). -/
theorem readSpad_lane (s : State) (a : Nat) {i : Nat} (hi : i < 4) :
    (s.readSpad a).extractLsb' (8 * i) 8 = (s.spad.byte (a + i)).getD (Config.freeByte (s.fresh + i)) := by
  have bound : ofLe (s.memRead a 4) < 2 ^ 32 := by simpa using ofLe_lt (s.memRead a 4)
  have bytes : le 4 (ofLe (s.memRead a 4)) = s.memRead a 4 := by simpa using le_ofLe (s.memRead a 4)
  calc (s.readSpad a).extractLsb' (8 * i) 8
      = BitVec.ofNat 8 (ofLe (s.memRead a 4) / 256 ^ i) := by
        rw [extractLsb'_byte, State.readSpad, BitVec.toNat_ofNat, Nat.mod_eq_of_lt bound]
    _ = (le 4 (ofLe (s.memRead a 4)))[i]'(by rwa [le_length]) := (le_getElem ..).symm
    _ = (s.memRead a 4)[i]'(by rwa [memRead_length]) := by simp only [bytes]
    _ = (s.spad.byte (a + i)).getD (Config.freeByte (s.fresh + i)) := by simp [State.memRead]

/-- Settles O38, lane by lane. -/
theorem unwrittenLanesReadAsFreeValues : Obligations.UnwrittenLanesReadAsFreeValues := by
  intro s j idle hj
  have lane {i : Nat} (hi : i < 4) := readSpad_lane s (4 * j) hi
  rw [busRead_word idle hj]
  refine ⟨fun i hi unwritten => ?_, fun i b hi written => ?_, rfl, rfl⟩
  · exact (lane hi).trans (by rw [unwritten, Option.getD_none])
  · exact (lane hi).trans (by rw [written, Option.getD_some])

/-! ### Who writes the scratchpad -/

/-- A CMD write leaves the scratchpad: only a completion writes it (R68). -/
theorem commandWrite_spad {s u : State} {w : Word} {rest : List HostOp} (ht : s.HostTurn)
    (h : issueWord w ((s.setScript rest).respond 0) = .next u) : u.spad = s.spad := by
  rcases commandWrite_kinds ht h with ⟨-, rfl⟩ | ⟨-, code, -, -, rfl⟩ | ⟨-, i, -, -, rfl⟩ <;> rfl

/-- Settles O52: of the host's lines only an idle write to the scratchpad and a move of the pin touch it. -/
theorem scratchpadChangesOnlyAsTheRulesSay : Obligations.ScratchpadChangesOnlyAsTheRulesSay := by
  intro s t a h changed
  have kept (same : t.spad = s.spad) : False := changed (by rw [same])
  rcases step_kinds h with ⟨p, hp, hw, -, -⟩ | ⟨ht, u, n, hu, rfl⟩
  · exact .inl ⟨p, hp, hw⟩
  · rcases hostMove_kinds hu with hplain | ⟨w, rest, -, -, hw⟩ | ⟨level, rest, hs, -⟩
    · rcases hplain.spad with same | ⟨idle, off, d, rest, hs, h800, -, -⟩
      · exact (kept same).elim
      · exact .inr (.inl ⟨idle, off, d, rest, hs, h800⟩)
    · exact (kept (commandWrite_spad (u := u) ht hw)).elim
    · exact .inr (.inr ⟨level, rest, hs⟩)

end Sys2Proof.Machine

/-! PROOFS. Commands that read unwritten bytes (20_memory R57; log 4): what each computes instead, and its completion. -/

namespace Sys2Proof.Machine

open Sys2Proof

/-! ### Free bytes in the scratchpad -/

@[simp] theorem freeBytes_length (s : State) (n : Nat) : (s.freeBytes n).length = n := by simp [State.freeBytes]

/-- A destination region written with free bytes: each byte a free value of its own. -/
theorem byte_writeFreeBytes (m : Memory) (s : State) (a n : Nat) {j : Nat} (hj : j < n) :
    (m.writeBytes a (s.freeBytes n)).byte (a + j) = some (Config.freeByte (s.fresh + j)) := by
  rw [byte_writeBytes_inside (by rwa [freeBytes_length])]
  simp [State.freeBytes]

theorem byte_writeFreeBytes_outside (m : Memory) (s : State) {a n x : Nat} (h : x < a ∨ a + n ≤ x) :
    (m.writeBytes a (s.freeBytes n)).byte x = m.byte x :=
  byte_writeBytes_outside (by rwa [freeBytes_length])

theorem freshAfter_unwritten (s : State) (k : Nat) : s.freshAfter false k = s.fresh + k := rfl

/-! ### PACK and PBKDF2 -/

theorem packOutput_of_unwritten {s : State} {l : Latched} (h : s.spad.written l.src.toNat l.slen.toNat = false) :
    s.packOutput l = s.freeBytes (2 * groupCount l) := by
  rw [State.packOutput, if_neg (ne_true_of_eq_false h)]

/-- Settles O24: PACK writes free bytes in place of the groups. -/
theorem packOfUnwrittenBytesCompletes : Obligations.PackOfUnwrittenBytesCompletes := by
  rintro s l n hc hw rfl
  refine ⟨s.spad.writeBytes l.dst.toNat (s.freeBytes (2 * groupCount l)), ?_, fun j => byte_writeFreeBytes _ s _ _,
    fun a => byte_writeFreeBytes_outside _ s⟩
  rw [exec_atCompletion hc, effectOf, effectPack, packOutput_of_unwritten hw, hw, freshAfter_unwritten]
  rfl

theorem kdfKnown_eq_false {s : State} {l : Latched}
    (h : s.spad.written l.src.toNat l.slen.toNat = false ∨ s.spad.written l.src2.toNat l.s2len.toNat = false) : s.kdfKnown l = false :=
  Bool.and_eq_false_iff.2 h

/-- The completion effect of both forms with an unknown source: whether "mnemonic" stands before the salt does not matter. -/
theorem stretchKey_of_unknown {s : State} {l : Latched} (h : s.kdfKnown l = false) (saltPrefix : List Byte) :
    s.stretchKey l saltPrefix =
      { s with spad := s.spad.writeBytes l.dst.toNat (s.freeBytes l.dlen.toNat), fresh := s.fresh + l.dlen.toNat } := by
  rw [State.stretchKey, State.derivedKey, if_neg (ne_true_of_eq_false h), h, freshAfter_unwritten]

/-- Settles O25: both forms write free bytes in place of the key. -/
theorem pbkdf2OfUnwrittenBytesCompletes : Obligations.Pbkdf2OfUnwrittenBytesCompletes := by
  intro s l i hi hc hw
  have unknown := stretchKey_of_unknown (kdfKnown_eq_false hw)
  refine ⟨s.spad.writeBytes l.dst.toNat (s.freeBytes l.dlen.toNat), ?_, fun k => byte_writeFreeBytes _ s _ _,
    fun a => byte_writeFreeBytes_outside _ s⟩
  rw [exec_atCompletion hc]
  rcases hi with rfl | rfl
  · rw [effectOf, effectPbkdf2, unknown]
    rfl
  · rw [effectOf, effectPbkdf2M, unknown]
    rfl

/-! ### SHA256 and CKSUM.APPEND -/

theorem hashRegion_of_unwritten {s : State} {a n : Nat} (h : s.spad.written a n = false) : s.hashRegion a n = s.freeHash := by
  rw [State.hashRegion, if_neg (ne_true_of_eq_false h)]

theorem freeHash_checksum (s : State) : s.freeHash.checksum = (Config.freeWord s.fresh).extractLsb' 24 8 := rfl

theorem effectSha256_of_unwritten {s : State} {l : Latched} (h : s.spad.written l.src.toNat l.slen.toNat = false) :
    effectSha256 l s =
      { s with
        sha := shaClosed s.freeHash (l.slen.setWidth 64)
        spad := s.spad.writeBytes l.dst.toNat s.freeHash.digest
        fresh := s.fresh + (l.slen.toNat + 8) } := by
  simp only [effectSha256, hashRegion_of_unwritten h, h, freshAfter_unwritten]

theorem effectCksumAppend_of_unwritten {s : State} {l : Latched} (h : s.spad.written l.src.toNat l.slen.toNat = false) :
    effectCksumAppend l s =
      { s with
        sha := shaClosed s.freeHash (l.slen.setWidth 64)
        cksum := s.freeHash.checksum
        spad := s.spad.writeBytes (l.src.toNat + l.slen.toNat) [s.freeHash.checksum]
        fresh := s.fresh + (l.slen.toNat + 8) } := by
  simp only [effectCksumAppend, hashRegion_of_unwritten h, h, freshAfter_unwritten]

/-- Settles O23: both commands go on from eight free hash words. -/
theorem oneShotHashOfUnwrittenBytesCompletes : Obligations.OneShotHashOfUnwrittenBytesCompletes := by
  intro s l h hw hfree
  obtain rfl : h = s.freeHash := hfree
  refine ⟨fun hc => ⟨s.spad.writeBytes l.dst.toNat s.freeHash.digest, ?_, holds_writeBytes _ _ _, fun a ha => ?_⟩,
    fun hc => ⟨s.spad.writeBytes (l.src.toNat + l.slen.toNat) [s.freeHash.checksum], ?_, holds_writeBytes _ _ [s.freeHash.checksum] 0 Nat.one_pos,
      fun a ha => ?_⟩⟩
  · rw [exec_atCompletion hc, effectOf, effectSha256_of_unwritten hw]
    simp only [State.completed, shaClosed]
  · exact byte_writeBytes_outside (by rwa [digest_length])
  · rw [exec_atCompletion hc, effectOf, effectCksumAppend_of_unwritten hw]
    simp only [State.completed, shaClosed, freeHash_checksum]
  · exact byte_writeBytes_outside (by rw [List.length_singleton]; omega)

/-! ### SHA256.UPDATE -/

theorem updateText_length (s : State) (l : Latched) : (s.updateText l).length = s.sha.buf.length + l.slen.toNat := by
  simp [State.updateText]

theorem updateText_of_buffered {s : State} {l : Latched} {i : Nat} {b : Byte} (h : s.sha.buf[i]? = some b) :
    (s.updateText l)[i]? = some b := by
  rw [State.updateText, List.getElem?_append_left (List.getElem?_eq_some_iff.1 h).1, h]

/-- After the buffered bytes the text holds the region: the byte at its address, or a free value where that is unwritten (R57). -/
theorem updateText_region (s : State) (l : Latched) {i : Nat} (hi : i < l.slen.toNat) :
    (s.updateText l)[s.sha.buf.length + i]? =
      some ((s.spad.byte (l.src.toNat + i)).getD (Config.freeByte (s.fresh + i))) := by
  rw [State.updateText, List.getElem?_append_right (Nat.le_add_right ..), Nat.add_sub_cancel_left, State.memRead, List.getElem?_map,
    List.getElem?_range hi, Option.map_some]

/-- The hash words after UPDATE of an unwritten region: free once a block is compressed. -/
theorem effectShaUpdate_h_of_unwritten {s : State} {l : Latched} (h : s.spad.written l.src.toNat l.slen.toNat = false) :
    (effectShaUpdate l s).sha.h = if s.sha.buf.length + l.slen.toNat < 64 then s.sha.h else s.freeHash := by
  simp only [effectShaUpdate_sha, updateText_length, h, Bool.false_or, beq_iff_eq]
  by_cases few : s.sha.buf.length + l.slen.toNat < 64
  · rw [Nat.div_eq_of_lt few, if_pos rfl, if_pos few]
    rfl
  · rw [if_neg (by omega), if_neg few]

/-- Settles O22: the bytes left to buffer are the end of the text, whatever of the region is unwritten. -/
theorem shaUpdateOfUnwrittenBytesCompletes : Obligations.ShaUpdateOfUnwrittenBytesCompletes := by
  rintro s l n done hc hw rfl hdone
  have words := effectShaUpdate_h_of_unwritten hw
  have left {i : Nat} (hi : done ≤ i) : ((s.updateText l).drop done)[i - done]? = (s.updateText l)[i]? := by
    rw [List.getElem?_drop, Nat.add_sub_cancel' hi]
  refine ⟨(s.updateText l).drop done, (effectShaUpdate l s).sha.h, ?_, fun few => ?_, fun many => ?_, ?_, fun i b hi hb => ?_,
    fun i b hi hd hb => ?_, fun i hi hd hb => ?_⟩
  · rw [exec_atCompletion hc, effectOf, hdone, ← updateText_length, effectShaUpdate, hw, freshAfter_unwritten]
    rfl
  · rw [words, if_pos few]
  · rw [words, if_neg (not_lt.2 many)]
    rfl
  · rw [List.length_drop, updateText_length]
    omega
  · rw [left hi, updateText_of_buffered hb]
  · rw [left hd, updateText_region s l hi, hb, Option.getD_some]
  · rw [left hd, updateText_region s l hi, hb, Option.getD_none]

end Sys2Proof.Machine

/-! PROOFS. The command word (30_encoding R70 to R74): decoding inverts encoding, and which words are legal. -/

namespace Sys2Proof

/-! ### Fields and words -/

theorem fieldsOf_encode (i : Instr) : fieldsOf (encode i) = i.fields := by cases i <;> rfl

/-- The three fields cover the word (R70). -/
theorem wordOf_fieldsOf (w : Word) : wordOf (fieldsOf w) = w := by
  refine BitVec.eq_of_getLsbD_eq fun k hk => ?_
  change BitVec.getLsbD (w := 23 + (1 + 8)) (w.extractLsb' 9 23 ++ (BitVec.ofBool (w.getLsbD 8) ++ w.extractLsb' 0 8)) k = _
  simp only [BitVec.getLsbD_append, BitVec.getLsbD_extractLsb', BitVec.getLsbD_ofBool]
  rcases lt_trichotomy k 8 with op | rfl | rsv
  · simp [op, Nat.lt_succ_of_lt op]
  · simp
  · have above : ¬k < 1 + 8 := by omega
    have inside : k - (1 + 8) < 23 := by omega
    simp [above, inside, Nat.add_sub_cancel' (not_lt.1 above)]

/-- A word has the fields of a command exactly when it is the word of the command. -/
theorem fieldsOf_eq_iff (w : Word) (i : Instr) : fieldsOf w = i.fields ↔ w = encode i := by
  refine ⟨fun h => ?_, fun h => h ▸ fieldsOf_encode i⟩
  rw [← wordOf_fieldsOf w, h, encode]

/-! ### The decoder -/

/-- Each row of the decoder answers the command whose OP and M it matches (R72). -/
theorem decodeOp_eq_ok_iff (op : Nat) (m : Bool) (i : Instr) : decodeOp op m = .ok i ↔ op = i.fields.op.toNat ∧ m = i.fields.m := by
  constructor
  · intro h
    unfold decodeOp at h
    split at h
    all_goals cases h
    all_goals exact ⟨rfl, rfl⟩
  · rintro ⟨rfl, rfl⟩
    cases i <;> rfl

theorem decode_eq_ok_iff (w : Word) (i : Instr) : decode w = .ok i ↔ w = encode i := by
  have row : i.fields = ⟨i.fields.op, i.fields.m, 0⟩ := by cases i <;> rfl
  rw [← fieldsOf_eq_iff, row, decode]
  obtain ⟨op, m, rsv⟩ := fieldsOf w
  by_cases hrsv : rsv = 0
  · simp [hrsv, decodeOp_eq_ok_iff, BitVec.toNat_inj]
  · rw [if_neg hrsv]
    exact iff_of_false nofun fun h => hrsv (congrArg CmdFields.rsv h)

theorem decode_encode (i : Instr) : decode (encode i) = .ok i := (decode_eq_ok_iff _ i).2 rfl

theorem decodeTableWord_eq_some_iff (w : Nat) (i : Instr) :
    decodeTableWord 32 w = some i ↔ w < 2 ^ 32 ∧ decode (BitVec.ofNat 32 w) = .ok i := by
  unfold decodeTableWord
  cases decode (BitVec.ofNat 32 w) <;> simp [Except.toOption]

/-! ### The legal words -/

/-- A legal opcode, with M only at that of PBKDF2, names a command (R72). -/
theorem exists_decodeOp_eq_ok {op : Nat} {m : Bool} (hop : op ≤ 7) (hm : m = true → op = 7) : ∃ i, decodeOp op m = .ok i := by
  cases m with
  | true => exact ⟨.pbkdf2M, by rw [hm rfl, decodeOp]⟩
  | false => interval_cases op <;> exact ⟨_, rfl⟩

/-- The words that decode are those whose fields pass the three checks of R73. -/
theorem exists_decode_eq_ok_iff (w : Word) : (∃ i, decode w = .ok i) ↔ (fieldsOf w).wellFormed = true := by
  constructor
  · rintro ⟨i, hi⟩
    rw [(decode_eq_ok_iff w i).1 hi, fieldsOf_encode]
    cases i <;> rfl
  · simp only [CmdFields.wellFormed, CmdFields.opDefined, CmdFields.rsvZero, CmdFields.mAllowed, Bool.and_eq_true, decide_eq_true_eq,
      beq_iff_eq]
    rintro ⟨⟨hop, hrsv⟩, hm⟩
    rw [decode, if_pos hrsv]
    refine exists_decodeOp_eq_ok hop fun mSet => ?_
    have seven : (fieldsOf w).op = 7 := by simpa [mSet] using hm
    rw [seven]
    rfl

/-- R72's list of the legal words, as numbers. -/
theorem exists_eq_encode_iff (w : Word) : (∃ i, w = encode i) ↔ w.toNat ≤ 7 ∨ w.toNat = 0x107 := by
  simp only [← BitVec.toNat_inj]
  generalize w.toNat = n
  constructor
  · rintro ⟨i, rfl⟩
    cases i <;> decide
  · rintro (low | rfl)
    · interval_cases n
      exacts [⟨.nop, rfl⟩, ⟨.shaInit, rfl⟩, ⟨.shaUpdate, rfl⟩, ⟨.shaFinal, rfl⟩, ⟨.sha256, rfl⟩, ⟨.cksumAppend, rfl⟩, ⟨.pack, rfl⟩,
        ⟨.pbkdf2, rfl⟩]
    · exact ⟨.pbkdf2M, rfl⟩

/-- Settles O2: decoding is the inverse of encoding, whose words are those of R72. -/
theorem legalWordsAreTheNineCommandWords : Obligations.LegalWordsAreTheNineCommandWords := by
  intro w
  refine ⟨decode_eq_ok_iff w, ?_⟩
  simp only [decode_eq_ok_iff, exists_eq_encode_iff]

/-- Settles O1: the host's entry decodes the same word. -/
theorem encodeThenDecodeIsTheCommand : Obligations.EncodeThenDecodeIsTheCommand := by
  intro i _
  refine ⟨decode_encode i, (decodeTableWord_eq_some_iff _ i).2 ⟨(encode i).isLt, ?_⟩⟩
  rw [BitVec.ofNat_toNat, BitVec.setWidth_eq, decode_encode]

/-- Settles O4: fixed words, decoded by evaluation. -/
theorem tableWordsDecode : Obligations.TableWordsDecode := by
  unfold Obligations.TableWordsDecode
  decide

end Sys2Proof

/-! PROOFS. A CMD write (30_encoding R73 to R79): illegal words, rejection, acceptance, the dropped write and the placed word; and the completion
step, which reads only the latch (R76). -/

namespace Sys2Proof.Machine

open Sys2Proof

/-! ### Illegal words -/

/-- The three conditions of R73 are the failures of the three checks. -/
theorem wellFormed_eq_false_iff (w : Word) :
    (fieldsOf w).wellFormed = false ↔
      8 ≤ (w.extractLsb' 0 8).toNat ∨ w.extractLsb' 9 23 ≠ 0 ∨ (w.getLsbD 8 = true ∧ w.extractLsb' 0 8 ≠ 7) := by
  simp only [CmdFields.wellFormed, CmdFields.opDefined, CmdFields.rsvZero, CmdFields.mAllowed, Bool.and_eq_false_iff,
    Bool.or_eq_false_iff, Bool.not_eq_false', decide_eq_false_iff_not, beq_eq_false_iff_ne, not_le, or_assoc]
  rfl

theorem issueWord_of_not_wellFormed {w : Word} (s : State) (h : (fieldsOf w).wellFormed = false) : issueWord w s = .next s.issueIllegal := by
  rcases issueWord_cases w s with ⟨-, -, hi⟩ | ⟨i, hd, -⟩
  · exact hi
  · have legal := (exists_decode_eq_ok_iff w).1 ⟨i, hd⟩
    exact absurd h (ne_false_of_eq_true legal)

theorem issueIllegal_of_idle {s : State} (idle : s.pending = none) : s.issueIllegal = s.accepting.raiseError .illegal := by
  rw [State.issueIllegal, busy_of_idle idle]
  rfl

/-- Settles O3, by the checks of R73. -/
theorem illegalWordIsRejected : Obligations.IllegalWordIsRejected := by
  intro w
  rw [← wellFormed_eq_false_iff, Bool.not_eq_false]
  refine ⟨fun illegal s idle => ?_, (exists_decode_eq_ok_iff w).2⟩
  rw [issueWord_of_not_wellFormed s illegal, issueIllegal_of_idle idle]
  rfl

/-! ### A command's word in an idle state -/

/-- A condition of the command's row holds: the code of the first is the error (R79, R130). -/
theorem exec_rejected {i : Instr} {s : State} {code : ErrCode} (idle : s.pending = none) (h : rejection i s.latch s.sha = some code) :
    exec i s = .next (s.accepting.raiseError code) := by
  rw [exec_hostTurn i (.inl idle), State.issue, busy_of_idle idle, firstError_checkRow, h]
  rfl

/-- No condition of the row holds: the command is started on the latched operands (R75, R76). -/
theorem exec_accepted {i : Instr} {s : State} (idle : s.pending = none) (h : rejection i s.latch s.sha = none) :
    exec i s = .next (s.accepting.start i s.latch) := by
  rw [exec_hostTurn i (.inl idle), State.issue, busy_of_idle idle, firstError_checkRow, h]
  rfl

/-- Settles O10. -/
theorem rejectionReportsTheFirstFailingCheck : Obligations.RejectionReportsTheFirstFailingCheck :=
  fun _ _ _ idle h => exec_rejected idle h

/-- Settles O11. -/
theorem acceptanceLatchesTheOperands : Obligations.AcceptanceLatchesTheOperands :=
  fun _ _ idle h => exec_accepted idle h

/-! ### A word written while BUSY = 1 -/

/-- Any word is dropped, a command's or not (R77). -/
theorem issueWord_of_busy {s : State} {p : Pending} (w : Word) (hp : s.pending = some p) (hw : s.wait ≠ 0) :
    issueWord w s = .next s.dropCommand := by
  rcases issueWord_cases w s with ⟨e, -, hi⟩ | ⟨i, -, hi⟩
  · rw [hi, State.issueIllegal, busy_of_pending hp]
    rfl
  · rw [hi, exec_hostTurn i (.inr hw), State.issue, busy_of_pending hp]
    rfl

/-- Settles O12: the port admits the write, and its word is dropped. -/
theorem busyCommandIsDropped : Obligations.BusyCommandIsDropped := by
  intro s p w hp hw
  rw [busWrite_register s w (by decide) (by decide)]
  exact issueWord_of_busy (s := s.respond 0) w hp hw

/-! ### A placed word -/

theorem withFetchWord_of_idle {s : State} (nbits w : Nat) (idle : s.pending = none) :
    s.withFetchWord nbits w =
      { s with rstN := true, host := { s.host with script := .write 0x010 (BitVec.ofNat 32 w) 0b1111 :: s.host.script } } := by
  rw [State.withFetchWord, State.withCommandWrite, busy_of_idle idle]
  rfl

theorem withFetchWord_of_busy {s : State} (nbits w : Nat) (busy : s.pending ≠ none) :
    s.withFetchWord nbits w =
      { s with
        rstN := true
        host := { s.host with script := .write 0x010 (BitVec.ofNat 32 w) 0b1111 :: s.host.script }
        wait := s.wait + 1 } := by
  obtain ⟨p, hp⟩ := Option.ne_none_iff_exists'.mp busy
  rw [State.withFetchWord, State.withCommandWrite, busy_of_pending hp]
  rfl

/-- Settles O7: the placed line is a CMD write at the head of the script, with a host move left before a pending completion. -/
theorem placedWordIsTheNextCommand : Obligations.PlacedWordIsTheNextCommand := by
  intro s w i h
  obtain ⟨-, hd⟩ := (decodeTableWord_eq_some_iff w i).1 h
  refine ⟨fun idle => ?_, fun busy => ?_⟩
  · rw [withFetchWord_of_idle 32 w idle]
    exact (stepIssuesTheDecodedCommand _ _ _ _ rfl rfl hd).1 idle
  · rw [withFetchWord_of_busy 32 w busy]
    exact (stepIssuesTheDecodedCommand _ _ _ _ rfl rfl hd).2 busy (Nat.succ_ne_zero s.wait)

/-! ### The completion step and the latch -/

/-- The state with other values in the ARG registers and in CTRL. -/
def State.withOperands (s : State) (x : Args) (c : Ctrl) : State := { s with args := x, ctrl := c }

section

variable (s : State) (x : Args) (c : Ctrl)

theorem hashRegion_withOperands (a n : Nat) : (s.withOperands x c).hashRegion a n = s.hashRegion a n := rfl

theorem freshAfter_withOperands (known : Bool) (k : Nat) : (s.withOperands x c).freshAfter known k = s.freshAfter known k := rfl

/-- No effect reads the ARG registers or CTRL; the two that write a digest are compared with the digest left folded. -/
theorem effectOf_withOperands (i : Instr) (l : Latched) : effectOf i l (s.withOperands x c) = (effectOf i l s).withOperands x c := by
  cases i with
  | shaFinal => simp only [effectOf, effectShaFinal, State.withOperands]
  | sha256 =>
    simp only [effectOf, effectSha256, hashRegion_withOperands, freshAfter_withOperands]
    simp only [State.withOperands]
  | _ => rfl

theorem complete_withOperands (i : Instr) (l : Latched) :
    (s.withOperands x c).complete l (checkRow i) (effectOf i) = thenNext (s.complete l (checkRow i) (effectOf i)) (·.withOperands x c) := by
  have engine : (s.withOperands x c).sha = s.sha := rfl
  rw [State.complete, State.complete, effectOf_withOperands, engine]
  cases firstError (checkRow i l s.sha) <;> rfl

end

/-- Settles O50: in the engine's turn the step is the completion on the latched operands. -/
theorem completionReadsOnlyTheLatch : Obligations.CompletionReadsOnlyTheLatch := by
  intro s p x c hp hw
  have same : (s.withOperands x c).pending = some p := hp
  rw [step_of_engineTurn hp hw, exec_engineTurn p.instr hp hw]
  exact ((step_of_engineTurn same hw).trans (exec_engineTurn p.instr same hw)).trans (complete_withOperands s x c p.instr p.l)

end Sys2Proof.Machine

/-! PROOFS. The host assembly (30_encoding R80, R81): what `expect` and `poll` do to the host, and what each pseudo-instruction stands for. -/

namespace Sys2Proof.Machine

open Sys2Proof

/-! ### A turn of `poll` -/

/-- BUSY, DONE and ERR read exactly, busy or not (R29, R155). -/
theorem readStatus_bits (s : State) :
    s.readStatus.getLsbD 0 = s.busy ∧ s.readStatus.getLsbD 1 = s.status.done ∧ s.readStatus.getLsbD 2 = s.status.err := by
  unfold State.readStatus State.statusWord
  refine ⟨?_, ?_, ?_⟩
  all_goals
    change BitVec.getLsbD (w := 26 + 1 + 1 + 1 + 1 + 1 + 1) (_ ++ _) _ = _
    simp only [BitVec.getLsbD_append]
    simp

theorem readInto_status_data (s : State) : (s.readInto 0x00C 0).host.resp.data = s.readStatus := by
  change (s.busRead 0x00C).host.resp.data = _
  rw [busRead_register_resp s (by decide) (by decide)]
  rfl

/-- The line stays while BUSY = 1 and is left at BUSY = 0 (R80). -/
theorem pollStatus_script (s : State) :
    s.pollStatus.host.script = if s.pending = none then s.host.script else .poll :: s.host.script := by
  obtain ⟨bit, -, -⟩ := readStatus_bits s
  rcases pollStatus_cases s with ⟨hb, hp⟩ | ⟨hb, hp⟩ <;> rw [readInto_status_data, bit] at hb <;> rw [hp]
  · obtain ⟨p, pending⟩ := (busy_iff s).1 hb
    rw [if_neg (by simp [pending])]
    rfl
  · rw [if_pos ((idle_iff s).1 hb), State.readInto, busRead_register s (by decide) (by decide)]
    rfl

theorem pollStatus_variable (s : State) : cellGet s.pollStatus.host.vars 0 = some s.readStatus := by
  have hv : s.pollStatus.host.vars = (s.readInto 0x00C 0).host.vars := by
    rcases pollStatus_cases s with ⟨-, hp⟩ | ⟨-, hp⟩ <;> rw [hp]
    rfl
  rw [hv, ← readInto_status_data]
  exact cellGet_cellSet_same ..

theorem step_of_poll {s : State} {rest : List HostOp} (ht : s.HostTurn) (hr : s.rstN = true) (hs : s.host.script = .poll :: rest) :
    ∃ t, step s = .next t ∧ t.host = (s.setScript rest).pollStatus.host := by
  have move : hostMove s = .next (s.setScript rest).pollStatus := by
    rw [hostMove_of_script_cons hs, State.hostOp, State.onBus, State.setScript_rstN, if_pos hr]
  by_cases idle : s.pending = none
  · exact ⟨_, (step_of_idle idle).trans move, rfl⟩
  · exact ⟨(s.setScript rest).pollStatus.tick, by rw [step_of_busy_hostTurn ht idle, move, thenNext_next], rfl⟩

/-- Settles O55. -/
theorem expectAndPollControlTheHost : Obligations.ExpectAndPollControlTheHost := by
  intro s rest
  refine ⟨fun var v idle hs => ?_, fun ht hr hs => ?_⟩
  · rw [step_of_idle idle, hostMove_of_script_cons hs, State.hostOp]
    exact ⟨fun kept => congrArg _ (if_pos kept), fun failed => congrArg _ (if_neg failed)⟩
  · obtain ⟨t, ht, host⟩ := step_of_poll ht hr hs
    refine ⟨t, ht, ?_, s.readStatus, ?_, readStatus_bits s⟩ <;> rw [host]
    · exact pollStatus_script (s.setScript rest)
    · exact pollStatus_variable (s.setScript rest)

/-! ### The words of `spad.put` -/

theorem spadPutOps_length (n off : Nat) (bytes : List Byte) : (spadPutOps n off bytes).length = n := by
  induction n generalizing off bytes with
  | zero => rfl
  | succ n ih => rw [spadPutOps, List.length_cons, ih]

/-- Word k is the group of four bytes from 4k, as far as the bytes go. -/
theorem spadPutOps_getElem? (off : Nat) (bytes : List Byte) {n k : Nat} (hk : k < n) :
    (spadPutOps n off bytes)[k]? = some (wrOp (0x800 + off + 4 * k) (BitVec.ofNat 32 (ofLe ((bytes.drop (4 * k)).take 4)))) := by
  induction n generalizing off bytes k with
  | zero => omega
  | succ n ih =>
    cases k with
    | zero => rfl
    | succ k =>
      have address : 0x800 + (off + 4) + 4 * k = 0x800 + off + 4 * (k + 1) := by omega
      have group : 4 + 4 * k = 4 * (k + 1) := by omega
      rw [spadPutOps, List.getElem?_cons_succ, ih _ _ (Nat.lt_of_succ_lt_succ hk), List.drop_drop, address, group]

theorem ofLe_zeros (k : Nat) : ofLe (zeros k) = 0 := by
  induction k with
  | zero => rfl
  | succ k ih => simpa [zeros, List.replicate_succ, ofLe] using ih

/-- Zero bytes after the last byte add nothing to the little-endian value. -/
theorem ofLe_append_zeros (s : List Byte) (k : Nat) : ofLe (s ++ zeros k) = ofLe s := by
  induction s with
  | nil => exact ofLe_zeros k
  | cons b r ih => rw [List.cons_append, ofLe, ih, ofLe]

/-- So a group that runs past the end of the bytes has the value of the group padded with zeros (R81). -/
theorem ofLe_padded_group (bytes : List Byte) {a : Nat} (n k : Nat) (ha : a ≤ bytes.length) :
    ofLe (((bytes ++ zeros k).drop a).take n) = ofLe ((bytes.drop a).take n) := by
  rw [List.drop_append_of_le_length ha, List.take_append, zeros, List.take_replicate]
  exact ofLe_append_zeros ..

theorem spadPut_getElem? (off : Nat) (bytes : List Byte) {k : Nat} (hk : k < (bytes.length + 3) / 4) :
    ((Asm.spadPut off bytes).expand)[k]? =
      some (wrOp (0x800 + off + 4 * k) (BitVec.ofNat 32 (ofLe (((bytes ++ zeros 3).drop (4 * k)).take 4)))) := by
  rw [Asm.expand, spadPutOps_getElem? off bytes hk, ofLe_padded_group bytes 4 3 (by omega)]

/-! ### The words of `spad.get` -/

theorem spadGet_length (off n var : Nat) : (Asm.spadGet off n var).expand.length = (n + 3) / 4 := by
  rw [Asm.expand, List.length_map, List.length_range]

theorem spadGet_getElem? (off n var : Nat) {k : Nat} (hk : k < (n + 3) / 4) :
    ((Asm.spadGet off n var).expand)[k]? = some (.read (BitVec.ofNat 12 (0x800 + off + 4 * k)) (var + k)) := by
  rw [Asm.expand, List.getElem?_map, List.getElem?_range hk, Option.map_some]

/-- Byte j of string k stands at c * k + j when n strings of c bytes each are put together. -/
theorem getElem?_flatMap_range (f : Nat → List Byte) {c n k j : Nat} (hf : ∀ i, (f i).length = c) (hk : k < n) (hj : j < c) :
    ((List.range n).flatMap f)[c * k + j]? = (f k)[j]? := by
  induction n with
  | zero => omega
  | succ n ih =>
    have len : ((List.range n).flatMap f).length = c * n := by rw [length_flatMap_range f n c hf, Nat.mul_comm]
    rw [List.range_succ, List.flatMap_append, List.flatMap_singleton]
    rcases Nat.lt_succ_iff_lt_or_eq.1 hk with before | rfl
    · have inside : c * k + j < c * n := Nat.lt_of_lt_of_le (Nat.add_lt_add_left hj _) (Nat.mul_le_mul_left c before)
      rw [List.getElem?_append_left (len ▸ inside), ih before]
    · rw [List.getElem?_append_right (len ▸ Nat.le_add_right ..), len, Nat.add_sub_cancel_left]

theorem spadGetBytes_eq {vars : List (Nat × Word)} {n var : Nat} {data : Nat → Word}
    (h : ∀ k, k < (n + 3) / 4 → cellGet vars (var + k) = some (data k)) :
    spadGetBytes vars n var = ((List.range ((n + 3) / 4)).flatMap fun k => le 4 (data k).toNat).take n := by
  refine congrArg (List.take n) (List.flatMap_congr fun k hk => ?_)
  rw [h k (List.mem_range.1 hk), Option.getD_some]

theorem spadGetBytes_length (vars : List (Nat × Word)) (n var : Nat) : (spadGetBytes vars n var).length = n := by
  rw [spadGetBytes, List.length_take, length_flatMap_range _ _ 4 fun _ => le_length ..]
  omega

/-- Byte j of the string is byte j mod 4 of word j / 4 (R81). -/
theorem spadGetBytes_getElem? {vars : List (Nat × Word)} {n var j : Nat} {data : Nat → Word}
    (h : ∀ k, k < (n + 3) / 4 → cellGet vars (var + k) = some (data k)) (hj : j < n) :
    (spadGetBytes vars n var)[j]? = some ((data (j / 4)).extractLsb' (8 * (j % 4)) 8) := by
  have word : j / 4 < (n + 3) / 4 := by omega
  have lane : j % 4 < 4 := Nat.mod_lt _ (by omega)
  have byte : ((List.range ((n + 3) / 4)).flatMap fun k => le 4 (data k).toNat)[4 * (j / 4) + j % 4]? = (le 4 (data (j / 4)).toNat)[j % 4]? :=
    getElem?_flatMap_range _ (fun _ => le_length ..) word lane
  rw [Nat.div_add_mod] at byte
  rw [spadGetBytes_eq h, List.getElem?_take_of_lt hj, byte, List.getElem?_eq_getElem (by rwa [le_length]), le_getElem, extractLsb'_byte]

/-- Settles O56: `spad.put` and `spad.get` word by word, the other rows as they are defined. -/
theorem pseudoInstructionsExpandAsTabled : Obligations.PseudoInstructionsExpandAsTabled := by
  refine ⟨fun off bytes _ => spadPut_getElem? off bytes, fun off bytes => spadPutOps_length .., fun off n var _ => spadGet_getElem? off n var,
    spadGet_length, fun vars n var data h => ⟨spadGetBytes_length vars n var, fun j => spadGetBytes_getElem? h⟩, ?_⟩
  exact ⟨fun _ _ => rfl, fun _ => rfl, fun _ _ _ => rfl, fun _ _ => rfl, fun _ _ _ => rfl, fun _ _ _ _ _ _ => ⟨rfl, rfl⟩, fun _ => rfl, rfl,
    fun _ => rfl⟩

end Sys2Proof.Machine

/-! PROOFS. The bit-packer (40_bitpack R82 to R91): the number that a run of stream bits spells, the indices as such numbers, the shift
accumulator, and PACK of a written region. -/

namespace Sys2Proof.Machine

open Sys2Proof

/-! ### Runs of stream bits -/

/-- The n stream bits from bit a on, as a number, the first one the most significant: an index of R85 cut loose from its place and width. -/
def streamValue (s : List Byte) (a n : Nat) : Nat := ((List.range n).map fun t => streamBit s (a + t) <<< (n - 1 - t)).sum

theorem packIndex_eq_streamValue (s : List Byte) (gw k : Nat) : packIndex s gw k = streamValue s (k * gw) gw := rfl

theorem streamBit_lt_two (s : List Byte) (j : Nat) : streamBit s j < 2 := by
  rw [streamBit, Nat.and_one_is_mod]
  exact Nat.mod_lt _ Nat.two_pos

@[simp] theorem streamValue_zero (s : List Byte) (a : Nat) : streamValue s a 0 = 0 := rfl

/-- One bit more shifts the run up by one place. -/
theorem streamValue_succ (s : List Byte) (a n : Nat) : streamValue s a (n + 1) = 2 * streamValue s a n + streamBit s (a + n) := by
  have shifted : ∀ t ∈ List.range n, streamBit s (a + t) <<< (n - t) = 2 * streamBit s (a + t) <<< (n - 1 - t) := by
    intro t ht
    have place : n - t = n - 1 - t + 1 := by have := List.mem_range.1 ht; omega
    rw [place, Nat.shiftLeft_succ]
  rw [streamValue, Nat.add_sub_cancel, List.range_succ, List.map_append, List.sum_append, List.map_congr_left shifted,
    List.sum_map_mul_left, ← streamValue]
  simp

theorem streamValue_lt (s : List Byte) (a n : Nat) : streamValue s a n < 2 ^ n := by
  induction n with
  | zero => simp
  | succ n ih =>
    have bit := streamBit_lt_two s (a + n)
    rw [streamValue_succ, Nat.pow_succ]
    omega

/-- R89. -/
theorem packIndex_lt (s : List Byte) (gw k : Nat) : packIndex s gw k < 2 ^ gw := streamValue_lt ..

/-- A run is cut in two: the first part stands above the second. -/
theorem streamValue_add (s : List Byte) (a m n : Nat) :
    streamValue s a (m + n) = 2 ^ n * streamValue s a m + streamValue s (a + m) n := by
  induction n with
  | zero => simp
  | succ n ih =>
    rw [← Nat.add_assoc, streamValue_succ, ih, streamValue_succ, Nat.pow_succ, Nat.add_assoc a]
    ring

/-! ### Bytes as runs of eight bits -/

theorem streamBit_of_byte (s : List Byte) (i : Nat) {t : Nat} (ht : t < 8) :
    streamBit s (8 * i + t) = (s.getD i 0).toNat >>> (7 - t) % 2 := by
  have byte : (8 * i + t) / 8 = i := by omega
  have place : (8 * i + t) % 8 = t := by omega
  rw [streamBit, byte, place, Nat.and_one_is_mod]

/-- The first n bits of a byte are its n high bits (R84). -/
theorem streamValue_high_bits (s : List Byte) (i : Nat) {n : Nat} (hn : n ≤ 8) :
    streamValue s (8 * i) n = (s.getD i 0).toNat >>> (8 - n) := by
  induction n with
  | zero => exact (Nat.shiftRight_eq_zero _ 8 (s.getD i 0).isLt).symm
  | succ n ih =>
    have place : 8 - n = 7 - n + 1 := by omega
    rw [streamValue_succ, ih (Nat.le_of_succ_le hn), streamBit_of_byte s i hn, place, Nat.shiftRight_succ, Nat.succ_sub_succ, Nat.div_add_mod]

theorem streamValue_byte (s : List Byte) (i : Nat) : streamValue s (8 * i) 8 = (s.getD i 0).toNat :=
  streamValue_high_bits s i le_rfl

theorem packIndex_eight (s : List Byte) (k : Nat) : packIndex s 8 k = (s.getD k 0).toNat := by
  rw [packIndex_eq_streamValue, Nat.mul_comm, streamValue_byte]

/-- An index of 16 bits is two bytes, the first one the high one. -/
theorem packIndex_sixteen (s : List Byte) (k : Nat) :
    packIndex s 16 k = 256 * (s.getD (2 * k) 0).toNat + (s.getD (2 * k + 1) 0).toNat := by
  have first : k * 16 = 8 * (2 * k) := by omega
  have second : 8 * (2 * k) + 8 = 8 * (2 * k + 1) := by omega
  rw [packIndex_eq_streamValue, first, streamValue_add s _ 8 8, second, streamValue_byte, streamValue_byte]
  rfl

theorem packIndex_one (s : List Byte) (k : Nat) : packIndex s 1 k = streamBit s k := by
  rw [packIndex_eq_streamValue, streamValue_succ, streamValue_zero, Nat.mul_one, Nat.mul_zero, Nat.zero_add, Nat.add_zero]

/-- The big-endian halfword that stands at byte i (R12). -/
theorem ofBe_halfword {s : List Byte} {i : Nat} (h : i + 1 < s.length) :
    ofBe ((s.drop i).take 2) = 256 * (s.getD i 0).toNat + (s.getD (i + 1) 0).toNat := by
  rw [List.drop_eq_getElem_cons (Nat.lt_of_succ_lt h), List.drop_eq_getElem_cons h, List.getD_eq_getElem _ _ h,
    List.getD_eq_getElem _ _ (Nat.lt_of_succ_lt h)]
  simp [ofBe, ofLe, Nat.add_comm]

/-- Settles O33. -/
theorem packCornerWidths : Obligations.PackCornerWidths := by
  refine fun x k => ⟨fun b hb => ?_, fun hk => ?_, packIndex_one x k⟩
  · rw [packIndex_eight, List.getD_eq_getElem?_getD, hb, Option.getD_some]
  · rw [packIndex_sixteen, ofBe_halfword hk]

/-! ### The shift accumulator -/

@[simp] theorem packIndices_length (s : List Byte) (gw n : Nat) : (packIndices s gw n).length = n := by simp [packIndices]

theorem packIndices_succ (s : List Byte) (gw n : Nat) : packIndices s gw (n + 1) = packIndices s gw n ++ [packIndex s gw n] := by
  simp [packIndices, List.range_succ]

/-- The accumulator after q whole groups of the stream and r bits of the next one. -/
def PackAcc.mid (s : List Byte) (gw q r : Nat) : PackAcc := ⟨streamValue s (q * gw) r, r, packIndices s gw q⟩

/-- The next bit ends the group, which is emitted, or is held with the others. -/
theorem PackAcc.feed_mid (s : List Byte) (gw q r : Nat) :
    (PackAcc.mid s gw q r).feed gw (streamBit s (q * gw + r)) =
      if r + 1 = gw then PackAcc.mid s gw (q + 1) 0 else PackAcc.mid s gw q (r + 1) := by
  simp only [PackAcc.feed, PackAcc.mid, ← streamValue_succ]
  split
  · next last => rw [last, ← packIndex_eq_streamValue, ← packIndices_succ, streamValue_zero]
  · rfl

/-- After the first n bits: n / GW groups emitted, the n mod GW bits since then held. -/
theorem foldl_feed_eq_mid (s : List Byte) {gw : Nat} (hgw : 1 ≤ gw) (n : Nat) :
    ((List.range n).map (streamBit s)).foldl (PackAcc.feed gw) ⟨0, 0, []⟩ = PackAcc.mid s gw (n / gw) (n % gw) := by
  induction n with
  | zero => rw [Nat.zero_div, Nat.zero_mod]; rfl
  | succ n ih =>
    have whole : n / gw * gw + n % gw = n := Nat.div_add_mod' n gw
    have rest : n % gw < gw := Nat.mod_lt n hgw
    have fed := PackAcc.feed_mid s gw (n / gw) (n % gw)
    rw [whole] at fed
    rw [List.range_succ, List.map_append, List.foldl_append, ih, List.map_singleton, List.foldl_cons, List.foldl_nil, fed]
    split_ifs with last
    · obtain ⟨hq, hr⟩ := (Nat.div_mod_unique (a := n + 1) (d := n / gw + 1) (c := 0) hgw).2
        ⟨by rw [Nat.mul_comm, Nat.succ_mul]; omega, hgw⟩
      rw [hq, hr]
    · obtain ⟨hq, hr⟩ := (Nat.div_mod_unique (a := n + 1) (d := n / gw) (c := n % gw + 1) hgw).2
        ⟨by rw [Nat.mul_comm]; omega, by omega⟩
      rw [hq, hr]

/-- Settles O32, by what the accumulator holds after each bit. -/
theorem shiftAccumulatorPacksTheSameIndices : Obligations.ShiftAccumulatorPacksTheSameIndices := by
  intro x gw hgw
  rw [packAccumulate, foldl_feed_eq_mid x hgw]
  exact ⟨rfl, rfl⟩

/-! ### PACK of a written region -/

theorem packOutput_of_holds {s : State} {l : Latched} {x : List Byte} (hlen : x.length = l.slen.toNat) (h : s.spad.Holds l.src.toNat x) :
    s.packOutput l = packBytes (packIndices x l.gw.toNat (groupCount l)) := by
  rw [State.packOutput, ← hlen, if_pos (written_of_holds h), memRead_of_holds h]

/-- The completion of PACK of a written region: no free value is used. -/
theorem effectPack_of_holds {s : State} {l : Latched} {x : List Byte} (hlen : x.length = l.slen.toNat) (h : s.spad.Holds l.src.toNat x) :
    effectPack l s =
      { s with
        spad := s.spad.writeBytes l.dst.toNat (packBytes (packIndices x l.gw.toNat (groupCount l)))
        packCount := BitVec.ofNat 32 (groupCount l) } := by
  rw [effectPack, packOutput_of_holds hlen h, ← hlen, written_of_holds h]
  rfl

/-- Index k stands as a little-endian halfword at a + 2k (R86). -/
theorem byte_writePackBytes (m : Memory) (a : Nat) (indices : List Nat) {k : Nat} (hk : k < indices.length) :
    (m.writeBytes a (packBytes indices)).byte (a + 2 * k) = some (BitVec.ofNat 8 indices[k]) ∧
      (m.writeBytes a (packBytes indices)).byte (a + 2 * k + 1) = some (BitVec.ofNat 8 (indices[k] / 256)) := by
  have inside {i : Nat} (hi : i < 2 * indices.length) :
      (m.writeBytes a (packBytes indices)).byte (a + i) = (packBytes indices)[i]? := by
    rw [byte_writeBytes, if_pos (by rw [packBytes_length]; omega), Nat.add_sub_cancel_left]
  rw [Nat.add_assoc, inside (by omega), inside (by omega)]
  exact packBytes_getElem? indices k hk

/-- Settles O20. -/
theorem packWritesTheIndices : Obligations.PackWritesTheIndices := by
  intro s l x hc hlen hx
  have count : groupCount l = 8 * x.length / l.gw.toNat := by rw [groupCount, hlen]
  rw [← count]
  refine ⟨s.spad.writeBytes l.dst.toNat (packBytes (packIndices x l.gw.toNat (groupCount l))), ?_, fun k hk => ?_, fun a ha => ?_⟩
  · rw [exec_atCompletion hc, effectOf, effectPack_of_holds hlen hx]
    rfl
  · simpa [packIndices] using byte_writePackBytes s.spad l.dst.toNat (packIndices x l.gw.toNat (groupCount l)) (k := k) (by simpa using hk)
  · exact byte_writeBytes_outside (by simpa using ha)

/-- A written region holds what is read of it. -/
theorem holds_memRead {s : State} {a n : Nat} (h : s.spad.written a n = true) : s.spad.Holds a (s.memRead a n) := by
  intro i hi
  obtain ⟨b, hb⟩ := Option.isSome_iff_exists.1 ((written_iff ..).1 h i (by simpa using hi))
  simp [State.memRead, hb]

/-- Two bytes hold no more than the number they are cut from. -/
theorem halfword_le (v : Nat) : (BitVec.ofNat 8 v).toNat + 256 * (BitVec.ofNat 8 (v / 256)).toNat ≤ v := by
  simp only [BitVec.toNat_ofNat]
  omega

/-- Settles O31: the bytes written are those of O20, for the string read from the source. -/
theorem packedIndexIsBelowTwoToTheWidth : Obligations.PackedIndexIsBelowTwoToTheWidth := by
  intro s l hc hw
  obtain ⟨m, hexec, hbytes, -⟩ := packWritesTheIndices s l (s.memRead l.src.toNat l.slen.toNat) hc (memRead_length ..) (holds_memRead hw)
  rw [memRead_length] at hbytes
  refine ⟨_, hexec, fun k hk => ?_⟩
  obtain ⟨hlo, hhi⟩ := hbytes k hk
  exact ⟨_, _, hlo, hhi, (halfword_le _).trans_lt (packIndex_lt ..)⟩

end Sys2Proof.Machine

/-! PROOFS. SHA-256 and SHA-512 as byte-string functions (41_sha256 R94 to R98; 42_pbkdf2 R111 to R114): the padding, the blocks in order, the
words of the digest, the message schedule, the rounds and the constants (R92, R93, R109, R110). -/

namespace Sys2Proof.Machine

open Sys2Proof

/-! ### Padding -/

theorem sha2Pad_length (w l : Nat) : (sha2Pad w l).length = 1 + (4 * w - w / 4 - 1 - l % (2 * w)) % (2 * w) + w / 4 := by
  simp only [sha2Pad, List.length_append, List.length_cons, zeros_length, be_length]
  omega

/-- R97 with its count of zero bytes as an integer residue. -/
theorem pad256_eq (l : Nat) : ∃ k : Nat, (k : Int) = (55 - (l : Int)) % 64 ∧ pad256 l = [0x80] ++ List.replicate k 0 ++ be 8 (8 * l) :=
  ⟨(119 - l % 64) % 64, by omega, rfl⟩

/-- The padded rest of a message fills one block where the bit count still fits in it, else two. -/
theorem pad256_fills (l : Nat) : l % 64 + (pad256 l).length = if l % 64 ≤ 55 then 64 else 128 := by
  rw [pad256, sha2Pad_length]
  split <;> omega

theorem sha2Pad_64_eq (l : Nat) :
    ∃ k : Nat, (k : Int) = (111 - (l : Int)) % 128 ∧ sha2Pad 64 l = [0x80] ++ List.replicate k 0 ++ be 16 (8 * l) :=
  ⟨(239 - l % 128) % 128, by omega, rfl⟩

theorem sha2Pad_64_fills (l : Nat) : (l + (sha2Pad 64 l).length) % 128 = 0 := by
  rw [sha2Pad_length]
  omega

/-! ### Blocks in order -/

/-- The last of n + 1 blocks is compressed into what the first n leave. -/
theorem absorb_succ_last {w : Nat} (f : Sha2 w) (n : Nat) (h : Hash w) (p : List Byte) :
    f.absorb (n + 1) h p = f.compress (f.absorb n h p) ((p.drop (2 * w * n)).take (2 * w)) := by
  rw [absorb_add]
  rfl

/-! ### The digest -/

/-- A digest is its eight words, big-endian, word 0 first (R98, R114). -/
theorem digest_eq {w : Nat} (h : Hash w) :
    h.digest =
      be (w / 8) h.h0.toNat ++ be (w / 8) h.h1.toNat ++ be (w / 8) h.h2.toNat ++ be (w / 8) h.h3.toNat ++
        be (w / 8) h.h4.toNat ++ be (w / 8) h.h5.toNat ++ be (w / 8) h.h6.toNat ++ be (w / 8) h.h7.toNat := by
  simp [Hash.digest, Hash.words]

/-- Byte 0 of a SHA-256 digest is H[0][31:24] (R98). -/
theorem digest_getElem?_zero (h : Hash 32) : h.digest[0]? = some h.checksum := by
  have top : h.checksum = BitVec.ofNat 8 (h.h0.toNat / 256 ^ 3) := extractLsb'_byte h.h0 3
  simp [digest_eq, be, le, top, Nat.div_div_eq_div_mul]

/-- Settles O26: H j is what the first j blocks leave. -/
theorem sha256PaddingFillsWholeBlocks : Obligations.Sha256PaddingFillsWholeBlocks := by
  refine ⟨fun l => ⟨pad256_eq l, pad256_fills l⟩, fun l => ⟨sha2Pad_64_eq l, sha2Pad_64_fills l⟩, fun n h p => ?_, fun m p hp => ?_,
    fun m p hp => ?_⟩
  · exact ⟨fun j => absorb256 j h p, rfl, fun j _ => absorb_succ_last sha256Params j h p, rfl⟩
  · refine ⟨hashFinal256 m, ?_, rfl, digest_eq _, digest_getElem?_zero _⟩
    rw [hp]
    rfl
  · refine ⟨fun j => sha512Params.absorb j iv512 p, sha512Params.final m, rfl, fun j _ => absorb_succ_last sha512Params j iv512 p, ?_,
      digest_eq _⟩
    rw [hp]
    rfl

/-! ### The message schedule -/

section

variable {w : Nat} (f : Sha2 w)

theorem blockWords_length (n : Nat) (m : List Byte) : (blockWords w n m).length = n := by
  induction n generalizing m with
  | zero => rfl
  | succ n ih => rw [blockWords, List.length_cons, ih]

/-- Word t of a block stands at its byte w/8 * t. -/
theorem blockWords_getD {n t : Nat} (m : List Byte) (ht : t < n) :
    (blockWords w n m).getD t 0 = BitVec.ofNat w (ofBe ((m.drop (w / 8 * t)).take (w / 8))) := by
  induction n generalizing m t with
  | zero => omega
  | succ n ih =>
    cases t with
    | zero => rfl
    | succ t => rw [blockWords, List.getD_cons_succ, ih _ (by omega), List.drop_drop, Nat.mul_succ, Nat.add_comm]

/-- The next word of the schedule, by the recurrence of R95 and R112, from the words so far, the latest one first. -/
def Sha2.nextWord (ws : List (BitVec w)) : BitVec w :=
  f.smallSigma1 (ws.getD 1 0) + ws.getD 6 0 + f.smallSigma0 (ws.getD 14 0) + ws.getD 15 0

theorem extend_succ (n : Nat) (ws : List (BitVec w)) : f.extend (n + 1) ws = f.extend n (f.nextWord ws :: ws) := rfl

theorem extend_length (n : Nat) (ws : List (BitVec w)) : (f.extend n ws).length = n + ws.length := by
  induction n generalizing ws with
  | zero => exact (Nat.zero_add _).symm
  | succ n ih => rw [extend_succ, ih, List.length_cons]; omega

/-- The words that stand in the schedule stay when it is extended. -/
theorem extend_reverse (n : Nat) (ws : List (BitVec w)) : ws.reverse <+: (f.extend n ws).reverse := by
  induction n generalizing ws with
  | zero => exact List.prefix_rfl
  | succ n ih => exact (List.reverse_cons ▸ List.prefix_append _ _).trans (ih (f.nextWord ws :: ws))


theorem extend_add (a b : Nat) (ws : List (BitVec w)) : f.extend (a + b) ws = f.extend b (f.extend a ws) := by
  induction a generalizing ws with
  | zero => rw [Nat.zero_add, Sha2.extend]
  | succ a ih => rw [Nat.succ_add, extend_succ, ih, extend_succ]

/-- The first 16 + n words of the schedule of a block, the latest one first. -/
def Sha2.scheduleTo (m : List Byte) (n : Nat) : List (BitVec w) := f.extend n (blockWords w 16 m).reverse

theorem scheduleTo_length (m : List Byte) (n : Nat) : (f.scheduleTo m n).length = n + 16 := by
  rw [Sha2.scheduleTo, extend_length, List.length_reverse, blockWords_length]

theorem scheduleTo_succ (m : List Byte) (n : Nat) :
    f.scheduleTo m (n + 1) = f.nextWord (f.scheduleTo m n) :: f.scheduleTo m n := by
  rw [Sha2.scheduleTo, extend_add]
  rfl

theorem schedule_length {m : List Byte} (hk : 16 ≤ f.k.length) : (f.schedule m).length = f.k.length := by
  rw [Sha2.schedule, List.length_reverse, ← Sha2.scheduleTo, scheduleTo_length, Nat.sub_add_cancel hk]

/-- A word of the schedule stands in every beginning of the schedule that is long enough. -/
theorem schedule_getD (m : List Byte) {i n : Nat} (hi : i < n + 16) (hn : n ≤ f.k.length - 16) :
    (f.schedule m).getD i 0 = (f.scheduleTo m n).getD (n + 15 - i) 0 := by
  obtain ⟨later, whole⟩ := extend_reverse f (f.k.length - 16 - n) (f.scheduleTo m n)
  rw [Sha2.scheduleTo, ← extend_add, Nat.add_sub_cancel' hn, ← Sha2.scheduleTo] at whole
  have hlen := scheduleTo_length f m n
  rw [Sha2.schedule, ← whole, List.getD_append _ _ _ _ (by rwa [List.length_reverse, hlen]), List.getD_eq_getElem?_getD,
    List.getElem?_reverse (by rwa [hlen]), hlen, List.getD_eq_getElem?_getD]
  congr 2

/-- The first sixteen words are those of the block (R95, R112). -/
theorem schedule_block (m : List Byte) {t : Nat} (ht : t < 16) :
    (f.schedule m).getD t 0 = BitVec.ofNat w (ofBe ((m.drop (w / 8 * t)).take (w / 8))) := by
  have hlen := blockWords_length (w := w) 16 m
  rw [schedule_getD f m (n := 0) (by omega) (Nat.zero_le _), ← blockWords_getD m ht, Sha2.scheduleTo, Sha2.extend, List.getD_eq_getElem?_getD,
    List.getElem?_reverse (by omega), hlen, List.getD_eq_getElem?_getD]
  congr 2
  omega

/-- Every later word follows from the words 2, 7, 15 and 16 places before it (R95, R112). -/
theorem schedule_recurrence (m : List Byte) {t : Nat} (ht : 16 ≤ t) (hk : t < f.k.length) :
    (f.schedule m).getD t 0 =
      f.smallSigma1 ((f.schedule m).getD (t - 2) 0) + (f.schedule m).getD (t - 7) 0 + f.smallSigma0 ((f.schedule m).getD (t - 15) 0) +
        (f.schedule m).getD (t - 16) 0 := by
  have back {j : Nat} (hj : j ≤ 16) :
      (f.schedule m).getD (t - j) 0 = (f.nextWord (f.scheduleTo m (t - 16)) :: f.scheduleTo m (t - 16)).getD j 0 := by
    rw [schedule_getD f m (n := t - 16 + 1) (by omega) (by omega), scheduleTo_succ]
    congr 1
    omega
  rw [back (j := 2) (by omega), back (j := 7) (by omega), back (j := 15) (by omega), back (j := 16) le_rfl]
  exact back (j := 0) (by omega)

/-! ### The rounds -/

/-- The working variables a to h of a compression, before round t (R96, R113). -/
def Sha2.workingVars (h : Hash w) (m : List Byte) (t : Nat) : Hash w := ((f.k.zip (f.schedule m)).take t).foldl f.round h

theorem workingVars_succ (h : Hash w) (m : List Byte) {t : Nat} (h16 : 16 ≤ f.k.length) (ht : t < f.k.length) :
    f.workingVars h m (t + 1) = f.round (f.workingVars h m t) (f.k.getD t 0, (f.schedule m).getD t 0) := by
  have hs : t < (f.schedule m).length := by rwa [schedule_length f h16]
  rw [Sha2.workingVars, List.take_succ_eq_append_getElem (by rw [List.length_zip]; omega), List.foldl_append, List.getElem_zip,
    List.getD_eq_getElem _ _ ht, List.getD_eq_getElem _ _ hs]
  rfl

/-- The compression adds the working variables after the last round to the chaining value. -/
theorem compress_eq (h : Hash w) (m : List Byte) (h16 : 16 ≤ f.k.length) : f.compress h m = h.add (f.workingVars h m f.k.length) := by
  rw [Sha2.compress, Sha2.workingVars, List.take_of_length_le]
  rw [List.length_zip, schedule_length f h16, min_self]

/-- Every member of the family follows R95 and R96, or R112 and R113, with its own sigma functions. -/
theorem followsTheRules (h16 : 16 ≤ f.k.length) :
    f.FollowsTheRules f.k.length f.bigSigma0 f.bigSigma1 f.smallSigma0 f.smallSigma1 := by
  intro h m _
  refine ⟨fun t => (f.schedule m).getD t 0, f.workingVars h m, ?_, fun t => schedule_block f m, fun t => schedule_recurrence f m, rfl,
    fun t ht => ?_, compress_eq f h m h16⟩
  · refine List.ext_getElem (by simp [schedule_length f h16]) fun t ht _ => ?_
    rw [List.getElem_map, List.getElem_range, List.getD_eq_getElem _ _ ht]
  · exact ⟨_, _, _, _, _, _, _, _, _, _, rfl, rfl, rfl, workingVars_succ f h m h16 ht⟩

end

/-! ### The constants -/

/-- A number passes trial division by every number below 21 (whose squares cover the numbers below 441). -/
def trialPrime (n : Nat) : Bool :=
  decide (2 ≤ n) && (List.range 21).all fun d => decide (d < 2) || decide (n < d * d) || decide (¬ d ∣ n)

theorem trialPrime_iff {n : Nat} (hn : n < 441) : trialPrime n = true ↔ n.Prime := by
  simp only [trialPrime, Bool.and_eq_true, decide_eq_true_eq, List.all_eq_true, List.mem_range, Bool.or_eq_true]
  rw [Nat.prime_def_le_sqrt]
  refine and_congr_right fun _ => ⟨fun h d h2 hd => ?_, fun h d _ => ?_⟩
  · have square : d * d ≤ n := Nat.le_sqrt.1 hd
    have small : d < 21 := by nlinarith
    rcases h d small with (h | h) | h
    · omega
    · omega
    · exact h
  · rcases lt_or_ge d 2 with h2 | h2
    · exact .inl (.inl h2)
    · rcases lt_or_ge n (d * d) with hd | hd
      · exact .inl (.inr hd)
      · exact .inr (h d h2 (Nat.le_sqrt.2 hd))

/-- The numbers below N with a property are the first ones with it, in order. -/
theorem filter_range_eq_map_nth (p : Nat → Prop) [DecidablePred p] (N : Nat) :
    (List.range N).filter p = (List.range (Nat.count p N)).map (Nat.nth p) := by
  induction N with
  | zero => rw [Nat.count_zero]; rfl
  | succ N ih =>
    rw [List.range_succ, List.filter_append, ih, Nat.count_succ]
    by_cases hN : p N
    · simp [hN, List.range_succ, Nat.nth_count hN]
    · simp [hN]

/-- The first 80 primes. -/
def primes80 : List Nat :=
  [2, 3, 5, 7, 11, 13, 17, 19, 23, 29, 31, 37, 41, 43, 47, 53, 59, 61, 67, 71, 73, 79, 83, 89, 97, 101, 103, 107, 109, 113, 127, 131, 137,
    139, 149, 151, 157, 163, 167, 173, 179, 181, 191, 193, 197, 199, 211, 223, 227, 229, 233, 239, 241, 251, 257, 263, 269, 271, 277, 281,
    283, 293, 307, 311, 313, 317, 331, 337, 347, 349, 353, 359, 367, 373, 379, 383, 389, 397, 401, 409]

theorem filter_range_trialPrime : (List.range 410).filter trialPrime = primes80 := by decide

theorem primes80_eq_map_nth : primes80 = (List.range 80).map (Nat.nth Nat.Prime) := by
  have below : (List.range 410).filter trialPrime = (List.range 410).filter Nat.Prime :=
    List.filter_congr fun n hn => by rw [Bool.eq_iff_iff, decide_eq_true_eq, trialPrime_iff ((List.mem_range.1 hn).trans (by omega))]
  have nth := filter_range_eq_map_nth Nat.Prime 410
  rw [← below, filter_range_trialPrime] at nth
  have count : 80 = Nat.count Nat.Prime 410 := by simpa [primes80] using congrArg List.length nth
  rwa [← count] at nth

/-- The fractional part cut off after `bits` places, with the integer part searched for below 8. -/
def rootFractionTest (degree bits p v : Nat) : Bool :=
  (List.range 8).any fun q =>
    decide ((2 ^ bits * q + v) ^ degree ≤ 2 ^ (bits * degree) * p ∧ 2 ^ (bits * degree) * p < (2 ^ bits * q + v + 1) ^ degree)

/-- A table whose words pass the test beside the primes holds the root fractions of the first primes. -/
theorem isRootFraction_of_table {bits degree : Nat} {table : List (BitVec bits)}
    (test : ((primes80.zip table).all fun c => rootFractionTest degree bits c.1 c.2.toNat) = true) (h80 : table.length ≤ 80) {t : Nat}
    (ht : t < table.length) : IsRootFraction degree bits (Nat.nth Nat.Prime t) (table.getD t 0).toNat := by
  have entry : (Nat.nth Nat.Prime t, table.getD t 0) ∈ primes80.zip table := by
    rw [primes80_eq_map_nth]
    refine List.mem_iff_getElem.2 ⟨t, by simp; omega, ?_⟩
    rw [List.getElem_zip, List.getElem_map, List.getElem_range, List.getD_eq_getElem _ _ ht]
  obtain ⟨q, -, hq⟩ := List.any_eq_true.1 (List.all_eq_true.1 test _ entry)
  exact ⟨(table.getD t 0).isLt, q, of_decide_eq_true hq⟩

/-- Settles O27. That `rotr` by a number below the width is `rotateRight` holds by unfolding. -/
theorem messageScheduleFollowsTheRecurrence : Obligations.MessageScheduleFollowsTheRecurrence :=
  ⟨followsTheRules sha256Params (by decide), followsTheRules sha512Params (by decide),
    fun _ => isRootFraction_of_table (table := k256) (by decide) (by decide),
    fun _ => isRootFraction_of_table (table := k512) (by decide) (by decide),
    fun _ => isRootFraction_of_table (table := iv256.words) (by decide) (by decide),
    fun _ => isRootFraction_of_table (table := iv512.words) (by decide) (by decide)⟩

end Sys2Proof.Machine

/-! PROOFS. The hash core's commands (41_sha256 R99 to R107): each completion on a written region, the stream they keep, and that nothing else
touches the engine. -/

namespace Sys2Proof.Machine

open Sys2Proof

theorem State.AtCompletion.accepted {s : State} {i : Instr} {l : Latched} (h : s.AtCompletion i l) : rejection i l s.sha = none := h.2.2

/-! ### SHA256.INIT -/

/-- Settles O15: the row of checks of SHA256.INIT is empty. -/
theorem shaInitOpensAnEmptyStream : Obligations.ShaInitOpensAnEmptyStream := by
  refine ⟨rfl, fun s idle => ?_, fun s l hp hw => exec_atCompletion ⟨hp, hw, rfl⟩⟩
  exact ⟨_, exec_accepted (i := .shaInit) idle rfl, Option.some_ne_none _, rfl⟩

/-! ### SHA256.UPDATE -/

/-- The length of a stream after an accepted SHA256.UPDATE has not wrapped round (R79, R101). -/
theorem toNat_len_update {l : Latched} {sha : ShaState} (h : rejection .shaUpdate l sha = none) :
    (sha.len + l.slen.setWidth 64).toNat = sha.len.toNat + l.slen.toNat := by
  obtain ⟨-, fits⟩ := shaUpdate_accepted h
  rw [Config.shaMaxLen] at fits
  rw [BitVec.toNat_add, BitVec.toNat_setWidth]
  omega

theorem updateText_of_holds {s : State} {l : Latched} {m : List Byte} (hlen : m.length = l.slen.toNat) (hm : s.spad.Holds l.src.toNat m) :
    s.updateText l = s.sha.buf ++ m := by
  rw [State.updateText, ← hlen, memRead_of_holds hm]

/-- The completion of SHA256.UPDATE of a written region: no free value is used. -/
theorem effectShaUpdate_of_holds {s : State} {l : Latched} {m : List Byte} (hlen : m.length = l.slen.toNat)
    (hm : s.spad.Holds l.src.toNat m) :
    effectShaUpdate l s =
      { s with
        sha :=
          { active := s.sha.active
            h := absorb256 ((s.sha.buf ++ m).length / 64) s.sha.h (s.sha.buf ++ m)
            len := s.sha.len + l.slen.setWidth 64
            buf := (s.sha.buf ++ m).drop (64 * ((s.sha.buf ++ m).length / 64)) } } := by
  rw [effectShaUpdate, updateText_of_holds hlen hm, ← hlen, written_of_holds hm]
  rfl

/-- Settles O16. -/
theorem shaUpdateAbsorbsTheRegion : Obligations.ShaUpdateAbsorbsTheRegion := by
  intro s l m hc hlen hm
  have len : s.sha.len + l.slen.setWidth 64 = BitVec.ofNat 64 (s.sha.len.toNat + l.slen.toNat) := by
    rw [← toNat_len_update hc.accepted, BitVec.ofNat_toNat, BitVec.setWidth_eq]
  rw [exec_atCompletion hc, effectOf, effectShaUpdate_of_holds hlen hm, len]
  rfl

/-! ### SHA256.FINAL, SHA256 and CKSUM.APPEND -/

/-- Settles O17. -/
theorem shaFinalWritesTheDigest : Obligations.ShaFinalWritesTheDigest := by
  rintro s l p h hc rfl hh
  obtain rfl : h = s.sha.finalHash := hh
  refine ⟨s.spad.writeBytes l.dst.toNat s.sha.finalHash.digest, ?_, holds_writeBytes _ _ _, fun a ha => ?_⟩
  · rw [exec_atCompletion hc, effectOf, effectShaFinal]
    simp only [State.completed, shaClosed]
  · exact byte_writeBytes_outside (by rwa [digest_length])

theorem hashRegion_of_holds {s : State} {a : Nat} {x : List Byte} (h : s.spad.Holds a x) : s.hashRegion a x.length = hashFinal256 x := by
  rw [State.hashRegion, if_pos (written_of_holds h), memRead_of_holds h]

theorem freshAfter_written (s : State) (k : Nat) : s.freshAfter true k = s.fresh := rfl

theorem effectSha256_of_holds {s : State} {l : Latched} {x : List Byte} (hlen : x.length = l.slen.toNat) (hx : s.spad.Holds l.src.toNat x) :
    effectSha256 l s =
      { s with
        sha := shaClosed (hashFinal256 x) (l.slen.setWidth 64)
        spad := s.spad.writeBytes l.dst.toNat (sha256Digest x) } := by
  simp only [effectSha256, ← hlen, hashRegion_of_holds hx, written_of_holds hx, freshAfter_written, sha256Digest]

/-- Settles O18. -/
theorem sha256WritesTheDigest : Obligations.Sha256WritesTheDigest := by
  intro s l x hc hlen hx
  refine ⟨s.spad.writeBytes l.dst.toNat (sha256Digest x), ?_, holds_writeBytes _ _ _, fun a ha => ?_⟩
  · rw [exec_atCompletion hc, effectOf, effectSha256_of_holds hlen hx]
    simp only [State.completed, shaClosed]
  · exact byte_writeBytes_outside (by rwa [sha256Digest_length])

theorem effectCksumAppend_of_holds {s : State} {l : Latched} {x : List Byte} (hlen : x.length = l.slen.toNat)
    (hx : s.spad.Holds l.src.toNat x) :
    effectCksumAppend l s =
      { s with
        sha := shaClosed (hashFinal256 x) (l.slen.setWidth 64)
        cksum := (hashFinal256 x).checksum
        spad := s.spad.writeBytes (l.src.toNat + l.slen.toNat) [(hashFinal256 x).checksum] } := by
  simp only [effectCksumAppend, ← hlen, hashRegion_of_holds hx, written_of_holds hx, freshAfter_written]

/-- A byte written right after a region that holds x makes the region one byte longer. -/
theorem holds_append_byte {m : Memory} {a : Nat} {x : List Byte} (h : m.Holds a x) (c : Byte) :
    (m.writeBytes (a + x.length) [c]).Holds a (x ++ [c]) := by
  intro i hi
  rcases lt_or_ge i x.length with old | new
  · rw [byte_writeBytes_outside (.inl (by omega)), List.getElem_append_left old, h i old]
  · obtain rfl : i = x.length := by rw [List.length_append, List.length_singleton] at hi; omega
    rw [List.getElem_concat_length rfl]
    exact byte_writeBytes_inside (bs := [c]) (i := 0) Nat.one_pos

/-- Settles O19: the byte written is byte 0 of the digest. -/
theorem cksumAppendWritesTheChecksum : Obligations.CksumAppendWritesTheChecksum := by
  intro s l x hc hlen hx
  refine ⟨s.spad.writeBytes (l.src.toNat + l.slen.toNat) [(hashFinal256 x).checksum], (hashFinal256 x).checksum, digest_getElem?_zero _, ?_,
    hlen ▸ holds_append_byte hx _, fun a ha => ?_⟩
  · rw [exec_atCompletion hc, effectOf, effectCksumAppend_of_holds hlen hx]
    simp only [State.completed, shaClosed]
  · exact byte_writeBytes_outside (by rw [List.length_singleton]; omega)

/-! ### Streams -/

/-- A message is absorbed in two parts: the whole blocks of x first, and then those of the rest of x with what follows it. -/
theorem absorb256_append (h : Hash 32) (x m : List Byte) :
    absorb256 ((x ++ m).length / 64) h (x ++ m) =
      absorb256 ((x.drop (64 * (x.length / 64)) ++ m).length / 64) (absorb256 (x.length / 64) h x) (x.drop (64 * (x.length / 64)) ++ m) := by
  have whole : 64 * (x.length / 64) ≤ x.length := Nat.mul_div_le ..
  have blocks : (x ++ m).length / 64 = x.length / 64 + (x.drop (64 * (x.length / 64)) ++ m).length / 64 := by
    simp only [List.length_append, List.length_drop]
    omega
  rw [blocks, absorb256, absorb_add, absorb_append _ _ _ _ _ whole, List.drop_append_of_le_length whole]
  rfl

/-- What is left to buffer of x and m together is what is left of the rest of x with m. -/
theorem drop_blocks_append (x m : List Byte) :
    (x ++ m).drop (64 * ((x ++ m).length / 64)) =
      (x.drop (64 * (x.length / 64)) ++ m).drop (64 * ((x.drop (64 * (x.length / 64)) ++ m).length / 64)) := by
  have whole : 64 * (x.length / 64) ≤ x.length := Nat.mul_div_le ..
  rw [← List.drop_append_of_le_length whole, List.drop_drop]
  congr 1
  simp only [List.length_append, List.length_drop]
  omega

theorem streams_init (l : Latched) (s : State) : (effectShaInit l s).sha.Streams [] := by
  rw [effectShaInit_sha]
  exact ⟨rfl, rfl, rfl, rfl⟩

/-- UPDATE takes a stream of x to a stream of x ‖ m (R106). -/
theorem streams_update {s : State} {l : Latched} {x m : List Byte} (accepted : rejection .shaUpdate l s.sha = none) (hx : s.sha.Streams x)
    (hlen : m.length = l.slen.toNat) (hm : s.spad.Holds l.src.toNat m) : (effectShaUpdate l s).sha.Streams (x ++ m) := by
  obtain ⟨active, len, buf, words⟩ := hx
  rw [effectShaUpdate_of_holds hlen hm]
  refine ⟨active, ?_, ?_, ?_⟩
  · rw [toNat_len_update accepted, len, ← hlen, List.length_append]
  · rw [drop_blocks_append x, ← buf]
  · rw [absorb256_append _ x, ← buf, ← words]

/-- FINAL of a stream of x computes the final hash words of x (R105). -/
theorem finalHash_of_streams {sha : ShaState} {x : List Byte} (hx : sha.Streams x) : sha.finalHash = hashFinal256 x := by
  obtain ⟨-, len, buf, words⟩ := hx
  rw [ShaState.finalHash, len, buf, words, ← absorb256_append]
  rfl

/-- Settles O34, one lemma for each of INIT, UPDATE and FINAL. -/
theorem streamedDigestIsTheDigestOfTheWhole : Obligations.StreamedDigestIsTheDigestOfTheWhole := by
  refine ⟨fun s l hc => ⟨_, exec_atCompletion hc, streams_init l s⟩, fun s l x m hc hx hlen hm => ?_, fun s l x hc hx => ?_⟩
  · exact ⟨_, exec_atCompletion hc, streams_update hc.accepted hx hlen hm⟩
  · refine ⟨_, exec_atCompletion hc, ?_, ?_, ?_⟩
    · rw [State.completed_spad, effectOf, effectShaFinal_spad, finalHash_of_streams hx, ← sha256Digest]
      exact holds_writeBytes _ _ _
    · rw [State.completed_sha, effectOf, effectShaFinal_sha, finalHash_of_streams hx, shaClosed]
    · rw [State.completed_sha, effectOf, effectShaFinal_sha, shaClosed]

/-! ### Who touches the engine -/

/-- The completion of any other command leaves the engine as it is (R107, R123). -/
theorem effectOf_sha_of_not_hash {i : Instr} (h : i ∉ [.shaInit, .shaUpdate, .shaFinal, .sha256, .cksumAppend]) (l : Latched) (s : State) :
    (effectOf i l s).sha = s.sha := by
  cases i with
  | nop | pack | pbkdf2 | pbkdf2M => rfl
  | shaInit | shaUpdate | shaFinal | sha256 | cksumAppend => exact absurd (by decide) h

/-- Settles O35: of the host's lines only a move of the reset pin reaches the engine (R130). -/
theorem onlyHashCommandsChangeTheEngine : Obligations.OnlyHashCommandsChangeTheEngine := by
  intro s t h changed
  rcases step_kinds h with ⟨p, hp, hw, -, rfl⟩ | ⟨ht, u, n, hu, rfl⟩
  · refine .inl ⟨p, hp, hw, ?_⟩
    by_contra other
    exact changed (effectOf_sha_of_not_hash other p.l s)
  · rcases hostMove_kinds hu with hp | ⟨w, rest, -, -, hw⟩ | ⟨level, rest, hs, -⟩
    · exact absurd hp.sha changed
    · rcases commandWrite_kinds ht hw with ⟨-, rfl⟩ | ⟨-, code, -, -, rfl⟩ | ⟨-, i, -, -, rfl⟩ <;> exact absurd rfl changed
    · exact .inr ⟨level, rest, hs⟩

end Sys2Proof.Machine

/-! PROOFS. HMAC-SHA512, PBKDF2 and the two commands that run it (42_pbkdf2 R115 to R123): the padded key, the iterates, the blocks of the derived
key, and the completion on written regions. -/

namespace Sys2Proof.Machine

open Sys2Proof

/-! ### HMAC-SHA512 -/

@[simp] theorem hmacKey_length (key : List Byte) : (hmacKey key).length = 128 := by
  rw [hmacKey, List.length_append, zeros_length]
  split
  · omega
  · rw [sha512Digest_length]

theorem hmacKey_of_short {key : List Byte} (h : key.length ≤ 128) : hmacKey key = key ++ List.replicate (128 - key.length) 0 := by
  rw [hmacKey, if_pos h, zeros]

theorem hmacKey_of_long {key : List Byte} (h : 128 < key.length) : hmacKey key = sha512Digest key ++ List.replicate 64 0 := by
  rw [hmacKey, if_neg (not_le.2 h), sha512Digest_length, zeros]

/-- Mixing with a string of one repeated byte mixes that byte into each. -/
theorem xorBytes_replicate (s : List Byte) (b : Byte) : xorBytes s (List.replicate s.length b) = s.map (· ^^^ b) := by
  induction s with
  | nil => rfl
  | cons a s ih => exact congrArg ((a ^^^ b) :: ·) ih

theorem xorBytes_hmacKey (key : List Byte) (b : Byte) : xorBytes (hmacKey key) (List.replicate 128 b) = (hmacKey key).map (· ^^^ b) := by
  rw [← xorBytes_replicate, hmacKey_length]

/-- Settles O30: the key of the statement is the model's padded key. -/
theorem hmacHashesTwiceUnderThePaddedKey : Obligations.HmacHashesTwiceUnderThePaddedKey := by
  refine fun key m => ⟨hmacKey key, hmacKey_length key, hmacKey_of_short, hmacKey_of_long, ?_, hmacSha512_length key m⟩
  rw [hmacSha512, xorBytes_hmacKey, xorBytes_hmacKey]

/-! ### The block function -/

/-- n iterations from U_(j+1) mix in U_(j+2) to U_(j+n+1). -/
theorem pbkdf2Iterate_eq_foldl (password salt : List Byte) (i n j : Nat) (acc : List Byte) :
    pbkdf2Iterate password n (pbkdf2U password salt i j) acc =
      (List.range n).foldl (fun acc k => xorBytes acc (pbkdf2U password salt i (j + k + 1))) acc := by
  induction n generalizing j acc with
  | zero => rfl
  | succ n ih =>
    rw [pbkdf2Iterate, ← pbkdf2U, ih, List.range_succ_eq_map, List.foldl_cons, List.foldl_map]
    simp only [Nat.succ_eq_add_one, Nat.add_zero, Nat.add_right_comm j, Nat.add_assoc]

/-- Settles O28: the iteration starts from U_1. -/
theorem blockFunctionXorsTheIterates : Obligations.BlockFunctionXorsTheIterates := by
  intro password salt c i _
  have mixed := pbkdf2Iterate_eq_foldl password salt i (c - 1) 0 (pbkdf2U password salt i 0)
  simp only [Nat.zero_add] at mixed
  rw [← mixed, pbkdf2Block, pbkdf2U]

/-! ### The derived key -/

@[simp] theorem pbkdf2Derive_length (password salt : List Byte) (c dkLen : Nat) : (pbkdf2Derive password salt c dkLen).length = dkLen := by
  rw [pbkdf2Derive, List.length_take, length_flatMap_range _ _ 64 fun i => pbkdf2Block_length _ _ _ _]
  omega

theorem pbkdf2Derive_getElem? (password salt : List Byte) (c : Nat) {dkLen j : Nat} (hj : j < dkLen) :
    (pbkdf2Derive password salt c dkLen)[j]? = (pbkdf2Block password salt c (j / 64 + 1))[j % 64]? := by
  have block : j / 64 < (dkLen + 63) / 64 := by omega
  have byte := getElem?_flatMap_range (fun k => pbkdf2Block password salt c (k + 1)) (fun _ => pbkdf2Block_length ..) block
    (Nat.mod_lt j (by decide))
  rwa [Nat.div_add_mod, ← List.getElem?_take_of_lt hj, ← pbkdf2Derive] at byte

/-- Settles O29. -/
theorem derivedKeyIsCutFromItsBlocks : Obligations.DerivedKeyIsCutFromItsBlocks :=
  fun password salt c dkLen => ⟨pbkdf2Derive_length password salt c dkLen, fun _ => pbkdf2Derive_getElem? password salt c⟩

/-! ### PBKDF2 and PBKDF2.M -/

/-- The completion effect of both forms on written regions: no free value is used. -/
theorem stretchKey_of_holds {s : State} {l : Latched} {password region : List Byte} (hp : password.length = l.slen.toNat)
    (password_held : s.spad.Holds l.src.toNat password) (hr : region.length = l.s2len.toNat) (region_held : s.spad.Holds l.src2.toNat region)
    (saltPrefix : List Byte) :
    s.stretchKey l saltPrefix =
      { s with spad := s.spad.writeBytes l.dst.toNat (pbkdf2Derive password (saltPrefix ++ region) l.iter.toNat l.dlen.toNat) } := by
  have known : s.kdfKnown l = true := by
    rw [State.kdfKnown, ← hp, ← hr, written_of_holds password_held, written_of_holds region_held, Bool.and_true]
  rw [State.stretchKey, State.derivedKey, if_pos known, known, freshAfter_written, ← hp, ← hr, memRead_of_holds password_held,
    memRead_of_holds region_held]

/-- Settles O21: the two forms differ in what stands before the salt region. -/
theorem pbkdf2WritesTheDerivedKey : Obligations.Pbkdf2WritesTheDerivedKey := by
  intro i s l password region salt hc form hp password_held hr region_held
  have completion := stretchKey_of_holds hp password_held hr region_held
  refine ⟨s.spad.writeBytes l.dst.toNat (pbkdf2Derive password salt l.iter.toNat l.dlen.toNat), ?_, holds_writeBytes _ _ _,
    pbkdf2Derive_length .., fun a ha => byte_writeBytes_outside (by rwa [pbkdf2Derive_length])⟩
  rw [exec_atCompletion hc]
  rcases form with ⟨rfl, rfl⟩ | ⟨rfl, rfl⟩
  · rw [effectOf, effectPbkdf2, completion, List.nil_append, State.completed]
  · rw [effectOf, effectPbkdf2M, completion, mnemonicPrefix, State.completed]

end Sys2Proof.Machine

/-! PROOFS. NOP (43_control R126): its acceptance, its dropped write, and what its completion shows at the interrupt and in STATUS. -/

namespace Sys2Proof.Machine

open Sys2Proof

/-- A command issued while BUSY = 1 is dropped, whichever it is (R77). -/
theorem exec_of_busy {s : State} {p : Pending} (i : Instr) (hp : s.pending = some p) (hw : s.wait ≠ 0) : exec i s = .next s.dropCommand := by
  rw [exec_hostTurn i (.inr hw), State.issue, busy_of_pending hp]
  rfl

/-- A completion sets DONE, one source of the interrupt, so IRQ_EN alone decides (R135). -/
theorem State.completed_irq (s : State) : s.completed.irq = s.ctrl.irqEn := by simp [State.irq]

/-- After a completion STATUS reads DONE alone when no stored bit was set and no stream is open (R29). -/
theorem readStatus_completed {s : State} (clear : s.status = ⟨false, false, false, false⟩) (closed : s.sha.active = false) :
    s.completed.readStatus = 0x00000002 := by
  have idle : s.completed.pending = none := rfl
  rw [readStatus_of_idle idle, statusWord_eq_sum, busy_of_idle idle, State.completed_status, State.completed_sha, clear, closed]
  rfl

/-- Settles O14: the row of checks of NOP is empty, and its effect is the identity. -/
theorem nopOnlyCompletes : Obligations.NopOnlyCompletes := by
  refine ⟨rfl, fun s idle => ?accepted, fun s p hp hw => exec_of_busy .nop hp hw, ?completion⟩
  case accepted => exact ⟨_, _, exec_accepted (i := .nop) idle rfl⟩
  case completion =>
    rintro s t l rfl hp hw
    refine ⟨exec_atCompletion ⟨hp, hw, rfl⟩, s.completed_irq, fun clear closed => ?_⟩
    have answer : (s.completed.busRead 0x00C).host.resp = ⟨s.completed.readStatus, false⟩ :=
      busRead_register_resp s.completed (by decide) (by decide)
    exact (congrArg Response.data answer).trans (readStatus_completed clear closed)

end Sys2Proof.Machine

/-! PROOFS. Exceptions (60_exceptions R134 to R136): the level of the interrupt after each way to clear it and after an acceptance, and that
neither a line of the host nor a completion is a fault. -/

namespace Sys2Proof.Machine

open Sys2Proof

/-! ### The interrupt -/

theorem irq_iff (s : State) :
    s.irq = true ↔ s.ctrl.irqEn = true ∧
      (s.status.done = true ∨ s.status.err = true ∨ s.status.cmdOvr = true ∨ s.status.busErr = true) := by
  simp only [State.irq, Bool.and_eq_true, Bool.or_eq_true, or_assoc]

theorem irq_of_irqEn_false {s : State} (h : s.ctrl.irqEn = false) : s.irq = false := by
  rw [State.irq, h, Bool.false_and]

theorem irq_of_status_clear {s : State} (h : s.status = ⟨false, false, false, false⟩) : s.irq = false := by
  rw [State.irq, h]
  exact Bool.and_false _

/-- 0x1E marks the four sources of the interrupt, so W1C leaves none of them (R30, R136). -/
theorem w1c_allSources (st : Status) : st.w1c 0x0000001E = ⟨false, false, false, false⟩ := by
  rw [w1c_eq_ite]
  rfl

/-- An idle CMD write that leaves a command pending is its acceptance: a rejection leaves none (R75, R130). -/
theorem exec_idle_pending {i : Instr} {s t : State} (idle : s.pending = none) (h : exec i s = .next t) (hp : t.pending ≠ none) :
    t = s.accepting.start i s.latch := by
  cases hr : rejection i s.latch s.sha with
  | none => exact next_inj ((exec_accepted idle hr).symm.trans h)
  | some code =>
    obtain rfl := next_inj ((exec_rejected idle hr).symm.trans h)
    exact absurd idle hp

/-- Acceptance clears DONE and ERR, so CMD_OVR and BUS_ERR are left to decide (R75, R135). -/
theorem irq_accepted (s : State) (i : Instr) (l : Latched) :
    (s.accepting.start i l).irq = (s.ctrl.irqEn && (s.status.cmdOvr || s.status.busErr)) := rfl

/-- Settles O47, one lemma for each way to make the right-hand side of R135 false. -/
theorem interruptFollowsItsSources : Obligations.InterruptFollowsItsSources := by
  intro s
  refine ⟨irq_iff s, fun t h => ?statusWrite, fun d t hd h => ?ctrlWrite, fun i t idle h hp => ?acceptance, ?reset⟩
  case statusWrite =>
    rw [busWrite_register s _ (by decide) (by decide)] at h
    obtain rfl := next_inj h
    exact irq_of_status_clear (w1c_allSources s.status)
  case ctrlWrite =>
    rw [busWrite_register s d (by decide) (by decide)] at h
    obtain rfl := next_inj h
    exact irq_of_irqEn_false hd
  case acceptance =>
    obtain rfl := exec_idle_pending idle h hp
    exact irq_accepted s i s.latch
  case reset => exact irq_of_status_clear rfl

/-! ### No step is a fault -/

/-- In the host's turn a CMD write of any word has a next state. -/
theorem issueWord_eq_next (w : Word) {s : State} (ht : s.HostTurn) : ∃ t, issueWord w s = .next t := by
  rcases issueWord_cases w s with ⟨e, -, hw⟩ | ⟨i, -, hw⟩
  · exact ⟨_, hw⟩
  · exact ⟨_, hw.trans (exec_hostTurn i ht)⟩

theorem writeReg_eq_next (d : Word) (r : Reg) {s : State} (ht : s.HostTurn) : ∃ t, s.writeReg d r = .next t := by
  cases r with
  | cmd => exact issueWord_eq_next d ht
  | _ => exact ⟨_, rfl⟩

/-- In the host's turn every write has a next state, answered with a bus error or admitted. -/
theorem busWrite_eq_next (off : BitVec 12) (d : Word) (strb : BitVec 4) {s : State} (ht : s.HostTurn) :
    ∃ t, s.busWrite off d strb = .next t := by
  rcases busWrite_cases s off d strb with ⟨-, hw⟩ | ⟨-, -, hw⟩ | ⟨-, -, hw⟩
  · exact ⟨_, hw⟩
  · exact ⟨_, hw⟩
  · have taken : (s.respond 0).HostTurn := ht
    rw [hw]
    exact writeReg_eq_next d _ taken

/-- A transaction with a next state is carried out or, while `rst_n` = 0, refused (R150). -/
theorem onBus_next_ne_fault (s u : State) (r : Fault) : s.onBus (.next u) ≠ .fault r := by
  rw [State.onBus]
  split <;> exact nofun

theorem hostOp_ne_fault (op : HostOp) {s : State} (ht : s.HostTurn) (r : Fault) : s.hostOp op ≠ .fault r := by
  cases op with
  | write off d strb =>
    obtain ⟨t, hw⟩ := busWrite_eq_next off d strb ht
    rw [State.hostOp, hw]
    exact onBus_next_ne_fault s t r
  | read off var => exact onBus_next_ne_fault s _ r
  | poll => exact onBus_next_ne_fault s _ r
  | expect var v => exact nofun
  | resetPin level => exact nofun

theorem hostMove_ne_fault {s : State} (ht : s.HostTurn) (r : Fault) : hostMove s ≠ .fault r := by
  cases hs : s.host.script with
  | nil =>
    rw [hostMove_of_script_nil hs]
    exact nofun
  | cons op rest =>
    have taken : (s.setScript rest).HostTurn := ht
    rw [hostMove_of_script_cons hs]
    exact hostOp_ne_fault op taken r

theorem thenNext_ne_fault {o : Host.Outcome State Fault Refusal} {r : Fault} (f : State → State) (h : o ≠ .fault r) :
    thenNext o f ≠ .fault r := by
  cases o with
  | next u => exact nofun
  | refused q => exact nofun
  | fault q => exact h

/-- In the host's turn a step is the host's move, with a move counted down while a command is pending. -/
theorem step_hostTurn_ne_fault {s : State} (ht : s.HostTurn) (r : Fault) : step s ≠ .fault r := by
  have move := hostMove_ne_fault ht r
  by_cases idle : s.pending = none
  · rwa [step_of_idle idle]
  · rw [step_of_busy_hostTurn ht idle]
    exact thenNext_ne_fault State.tick move

/-! ### Completion -/

/-- Under the invariant the pending operands pass the checks of their command, so the engine's turn is its completion (R78, R134). -/
theorem step_completes {s : State} {p : Pending} (h : s.Inv) (hp : s.pending = some p) (hw : s.wait = 0) :
    step s = .next (effectOf p.instr p.l s).completed := by
  obtain ⟨accepted, -⟩ := h.pending p hp
  rw [step_of_engineTurn hp hw]
  exact exec_atCompletion ⟨hp, hw, accepted⟩

theorem step_ne_fault {s : State} (h : s.Inv) (r : Fault) : step s ≠ .fault r := by
  cases hp : s.pending with
  | none => exact step_hostTurn_ne_fault (.inl hp) r
  | some p =>
    by_cases hw : s.wait = 0
    · rw [step_completes h hp hw]
      exact nofun
    · exact step_hostTurn_ne_fault (.inr hw) r

/-- Settles O49: the completion sets DONE, and its effect leaves ERR and ERRCODE as the acceptance left them (R75, R78). -/
theorem completionNeverFails : Obligations.CompletionNeverFails := by
  intro s h
  refine ⟨step_ne_fault h, fun p hp hw => ⟨_, step_completes h hp hw, rfl, rfl, ?_, ?_⟩⟩
  all_goals
    obtain ⟨-, -, herr, hcode⟩ := h.pending p hp
    simp only [State.completed_status, State.completed_errcode, effectOf_status, effectOf_errcode, herr, hcode]

end Sys2Proof.Machine

/-! PROOFS. Moves of the host by kind (30_encoding R80; 70_reset_and_hazards R147 to R150): a transaction, which needs `rst_n` = 1, and a move of
the reset pin. -/

namespace Sys2Proof.Machine

open Sys2Proof

/-! ### Transactions -/

/-- The lines that make a bus transaction (R50, R80). -/
def HostOp.isTransaction : HostOp → Bool
  | .write .. | .read .. | .poll => true
  | .expect .. | .resetPin _ => false

theorem onBus_of_high {s : State} (hr : s.rstN = true) (o : Host.Outcome State Fault Refusal) : s.onBus o = o := if_pos hr

theorem onBus_of_low {s : State} (hr : s.rstN = false) (o : Host.Outcome State Fault Refusal) :
    s.onBus o = .refused .transactionInReset := if_neg (ne_true_of_eq_false hr)

theorem hostOp_of_low {s : State} {op : HostOp} (hr : s.rstN = false) (h : op.isTransaction = true) :
    s.hostOp op = .refused .transactionInReset := by
  cases op with
  | write | read | poll => exact onBus_of_low hr _
  | expect | resetPin => cases h

/-- In the host's turn every line has a next state, a transaction while `rst_n` = 1. -/
theorem hostOp_eq_next {s : State} {op : HostOp} (ht : s.HostTurn) (h : op.isTransaction = true → s.rstN = true) :
    ∃ u, s.hostOp op = .next u := by
  cases op with
  | write off d strb =>
    obtain ⟨u, hu⟩ := busWrite_eq_next off d strb ht
    exact ⟨u, (onBus_of_high (h rfl) _).trans hu⟩
  | read off var => exact ⟨_, onBus_of_high (h rfl) _⟩
  | poll => exact ⟨_, onBus_of_high (h rfl) _⟩
  | expect | resetPin => exact ⟨_, rfl⟩

theorem hostMove_eq_next {s : State} (ht : s.HostTurn)
    (h : ∀ op rest, s.host.script = op :: rest → op.isTransaction = true → s.rstN = true) : ∃ u, hostMove s = .next u := by
  cases hs : s.host.script with
  | nil => exact ⟨s, hostMove_of_script_nil hs⟩
  | cons op rest =>
    have taken : (s.setScript rest).HostTurn := ht
    rw [hostMove_of_script_cons hs]
    exact hostOp_eq_next taken (h op rest hs)

/-- Settles O9: an idle step is the host's line, and the line is a transaction. -/
theorem transactionInResetIsRefused : Obligations.TransactionInResetIsRefused := by
  intro s rest low idle
  have refuses {op : HostOp} (h : op.isTransaction = true) (hs : s.host.script = op :: rest) :
      step s = .refused .transactionInReset := by
    rw [step_of_idle idle, hostMove_of_script_cons hs]
    exact hostOp_of_low (s := s.setScript rest) low h
  exact ⟨fun _ _ _ => refuses rfl, fun _ _ => refuses rfl, refuses rfl⟩

/-! ### The reset pin -/

/-- Driven low, or released, the pin gives the block its reset values, also with a command pending: the count of moves is reset with it. -/
theorem step_of_resetPin {s : State} {level : Bool} {rest : List HostOp} (ht : s.HostTurn) (hs : s.host.script = .resetPin level :: rest)
    (hl : level = false ∨ s.rstN = false) : step s = .next { (s.setScript rest).resetBlock with rstN := level } := by
  have driven : (s.setScript rest).drivePin level = { (s.setScript rest).resetBlock with rstN := level } := by
    have inactive : (level && s.rstN) = false := Bool.and_eq_false_iff.2 hl
    exact if_neg (ne_true_of_eq_false inactive)
  have move : hostMove s = .next { (s.setScript rest).resetBlock with rstN := level } := by
    rw [hostMove_of_script_cons hs, State.hostOp, driven]
  by_cases idle : s.pending = none
  · rw [step_of_idle idle, move]
  · rw [step_of_busy_hostTurn ht idle, move]
    rfl

/-- Settles O57: the pin is driven low in the host's turn, and released in the idle state this leaves. -/
theorem resetPinGivesTheResetValues : Obligations.ResetPinGivesTheResetValues := by
  intro s rest ht hs
  refine ⟨_, _, step_of_resetPin ht hs (.inl rfl), step_of_resetPin (.inl rfl) rfl (.inr rfl), rfl, rfl, rfl, rfl, rfl, ?_⟩
  rintro v (rfl | rfl)
  · exact ⟨rfl, rfl, rfl, rfl, rfl, rfl, rfl, rfl, fun _ => rfl⟩
  · exact ⟨rfl, rfl, rfl, rfl, rfl, rfl, rfl, rfl, fun _ => rfl⟩

end Sys2Proof.Machine

/-! PROOFS. Hazards at the registers (70_reset_and_hazards R155, R156): what a read returns while BUSY = 1, and what STATUS and ERRCODE show
right after a CMD write. -/

namespace Sys2Proof.Machine

open Sys2Proof

/-! ### Reads while BUSY = 1 -/

theorem resultWord_of_busy {s : State} {p : Pending} (h : s.pending = some p) (v : Word) : s.resultWord v = Config.freeWord s.fresh := by
  rw [State.resultWord, busy_of_pending h]
  rfl

theorem readStatus_of_busy {s : State} {p : Pending} (h : s.pending = some p) :
    s.readStatus = s.statusWord ((Config.freeWord s.fresh).getLsbD 5) := by
  rw [State.readStatus, busy_of_pending h]
  rfl

/-- A result register reads as a free value, whatever it stores. -/
theorem readReg_result_of_busy {s : State} {p : Pending} (h : s.pending = some p) {r : Reg} (hr : r.isResult = true) :
    s.readReg r = Config.freeWord s.fresh := by
  cases r with
  | packCount | cksum | shaLenLo | shaLenHi | shaH => exact resultWord_of_busy h _
  | _ => cases hr

/-- The state with another pending command and other results. -/
def State.withResults (s : State) (q : Option Pending) (sha : ShaState) (count : Word) (sum : Byte) : State :=
  { s with pending := q, sha := sha, packCount := count, cksum := sum }

/-- Of the registers only the results and STATUS read what a pending command may still change. -/
theorem readReg_withResults (s : State) (q : Option Pending) (sha : ShaState) (count : Word) (sum : Byte) {r : Reg}
    (hr : r.isResult = false) (hs : r ≠ .status) : (s.withResults q sha count sum).readReg r = s.readReg r := by
  cases r with
  | packCount | cksum | shaLenLo | shaLenHi | shaH => cases hr
  | status => exact absurd rfl hs
  | _ => rfl

theorem busRead_withResults_resp (s : State) (q : Option Pending) (sha : ShaState) (count : Word) (sum : Byte) {off : BitVec 12}
    (ha : off.toNat % 4 = 0) (h800 : off.toNat < 0x800) (hr : (regAt off.toNat).isResult = false) (hs : regAt off.toNat ≠ .status) :
    ((s.withResults q sha count sum).busRead off).host.resp = (s.busRead off).host.resp := by
  rw [busRead_register_resp _ ha h800, busRead_register_resp s ha h800, readReg_withResults s q sha count sum hr hs]

/-- R155 at the offset of a result register. -/
theorem busRead_result_of_busy {s : State} {p : Pending} (h : s.pending = some p) {off : BitVec 12} (ha : off.toNat % 4 = 0)
    (h800 : off.toNat < 0x800) (hr : (regAt off.toNat).isResult = true) :
    (s.busRead off).host.resp = ⟨Config.freeWord s.fresh, false⟩ ∧ (s.busRead off).fresh = s.fresh + 4 := by
  rw [busRead_register s ha h800, readReg_result_of_busy h hr]
  exact ⟨rfl, rfl⟩

/-- R155 at the offset of STATUS: BUSY is 1, SHA_ACTIVE is free. -/
theorem busRead_status_of_busy {s : State} {p : Pending} (h : s.pending = some p) :
    (s.busRead 0x00C).host.resp =
      ⟨BitVec.ofNat 32 (1 + 2 * s.status.done.toNat + 4 * s.status.err.toNat + 8 * s.status.cmdOvr.toNat + 16 * s.status.busErr.toNat
        + 32 * ((Config.freeWord s.fresh).getLsbD 5).toNat), false⟩ := by
  have answer : (s.busRead 0x00C).host.resp = ⟨s.readStatus, false⟩ := busRead_register_resp s (by decide) (by decide)
  rw [answer, readStatus_of_busy h, statusWord_eq_sum, busy_of_pending h, Bool.toNat_true]

/-- Settles O44, by the kind of the register at each offset. -/
theorem busyReadsOfResultsAreFree : Obligations.BusyReadsOfResultsAreFree := by
  intro s p hp
  refine ⟨fun off hoff => ?results, busRead_status_of_busy hp, ?index, fun sha count sum off hoff => ?exact⟩
  case results =>
    simp only [List.mem_cons, List.not_mem_nil, or_false] at hoff
    rcases hoff with rfl | rfl | rfl | rfl | rfl | rfl | rfl | rfl | rfl | rfl | rfl | rfl
    all_goals exact busRead_result_of_busy hp rfl (by decide) rfl
  case index => rw [busRead_register s (by decide) (by decide)]
  case exact =>
    simp only [List.mem_cons, List.not_mem_nil, or_false] at hoff
    rcases hoff with rfl | rfl | rfl | rfl | rfl | rfl | rfl | rfl | rfl | rfl | rfl
    all_goals exact busRead_withResults_resp s none sha count sum rfl (by decide) rfl nofun

/-! ### STATUS right after a CMD write -/

/-- An idle CMD write leaves no error and a pending command, or an error and none (R75, R130). -/
theorem issueWord_of_idle {s : State} (w : Word) (idle : s.pending = none) :
    ∃ t, issueWord w s = .next t ∧ (t.errcode = .noError ↔ ∃ i, decode w = .ok i ∧ rejection i s.latch s.sha = none) ∧
      (t.busy = true ↔ t.errcode = .noError) ∧ (t.status.err = true ↔ t.errcode ≠ .noError) := by
  obtain ⟨t, hw⟩ := issueWord_eq_next w (.inl idle)
  refine ⟨t, hw, ?_⟩
  rcases issueWord_hostTurn (.inl idle) hw with ⟨busy, -⟩ | ⟨hb, ⟨code, hcode, rejects, rfl⟩ | ⟨i, hi, accepts, rfl⟩⟩
  · exact absurd (busy_of_idle idle) (ne_false_of_eq_true busy)
  · have unaccepted : ¬∃ i, decode w = .ok i ∧ rejection i s.latch s.sha = none := by
      rintro ⟨i, hi, h⟩
      exact rejects i hi (by rwa [firstError_checkRow])
    have idle' : (s.accepting.raiseError code).busy = false := hb
    simp [hcode, unaccepted, idle']
  · rw [firstError_checkRow] at accepts
    have accepted : ∃ i, decode w = .ok i ∧ rejection i s.latch s.sha = none := ⟨i, hi, accepts⟩
    simp [accepted, State.busy]

/-- Settles O13: the code is the one the CMD write leaves in ERRCODE. -/
theorem statusShowsTheOutcomeOfACommandWrite : Obligations.StatusShowsTheOutcomeOfACommandWrite := by
  intro s w idle
  obtain ⟨t, hw, accepted, busy, err⟩ := issueWord_of_idle (s := s.respond 0) w idle
  have status : (t.busRead 0x00C).host.resp.data = t.readStatus :=
    congrArg Response.data (busRead_register_resp t (by decide) (by decide))
  obtain ⟨busyBit, -, errBit⟩ := readStatus_bits t
  refine ⟨t, t.errcode, (busWrite_register s w (by decide) (by decide)).trans hw, accepted, ?_, ?_,
    busRead_register_resp t (by decide) (by decide)⟩
  · rw [status, busyBit, busy]
  · rw [status, errBit, err]

end Sys2Proof.Machine

/-! PROOFS. Weak fairness of the engine (00_scope R16; 70_reset_and_hazards R158): while no reset comes, each move of the host brings a pending
command one move nearer to its completion step. -/

namespace Sys2Proof.Machine

open Sys2Proof

/-! ### A move of the host while a command waits -/

/-- What a move of the host keeps for a waiting command: the command, its count of moves and `rst_n`; and the script gets no new line. -/
structure State.KeepsWaiting (s u : State) : Prop where
  pending : u.pending = s.pending
  wait : u.wait = s.wait
  rstN : u.rstN = s.rstN
  script : u.host.script ⊆ s.host.script

theorem script_tail_subset {s : State} {op : HostOp} {rest : List HostOp} (hs : s.host.script = op :: rest) : rest ⊆ s.host.script :=
  hs ▸ List.subset_cons_self op rest

/-- A write keeps the command waiting, one to CMD too: it is dropped (R77). -/
theorem keepsWaiting_busWrite {s u : State} {p : Pending} {rest : List HostOp} {off : BitVec 12} {d : Word} {strb : BitVec 4}
    (hp : s.pending = some p) (hw : s.wait ≠ 0) (hs : rest ⊆ s.host.script) (h : (s.setScript rest).busWrite off d strb = .next u) :
    s.KeepsWaiting u := by
  rcases busWrite_next h with rfl | ⟨-, -, -, -, rfl⟩ | ⟨-, -, issued⟩ | ⟨-, c, a, st, rfl, -⟩
  · exact ⟨rfl, rfl, rfl, hs⟩
  · exact ⟨rfl, rfl, rfl, hs⟩
  · obtain rfl := next_inj ((issueWord_of_busy (s := (s.setScript rest).respond 0) d hp hw).symm.trans issued)
    exact ⟨rfl, rfl, rfl, hs⟩
  · exact ⟨rfl, rfl, rfl, hs⟩

theorem readInto_script (s : State) (off : BitVec 12) (var : Nat) : (s.readInto off var).host.script = s.host.script := by
  rcases busRead_cases s off with ⟨-, hr⟩ | ⟨-, hr⟩ <;> rw [State.readInto, hr] <;> rfl

theorem keepsWaiting_readInto {s : State} {rest : List HostOp} (hs : rest ⊆ s.host.script) (off : BitVec 12) (var : Nat) :
    s.KeepsWaiting ((s.setScript rest).readInto off var) := by
  have script := readInto_script (s.setScript rest) off var
  obtain ⟨b, h, n, hu, -⟩ := readInto_eq (s.setScript rest) off var
  rw [hu] at script ⊢
  exact ⟨rfl, rfl, rfl, script ▸ hs⟩

/-- The line of a `poll` stays. -/
theorem keepsWaiting_pollStatus {s : State} {p : Pending} {rest : List HostOp} (hp : s.pending = some p)
    (hs : s.host.script = .poll :: rest) : s.KeepsWaiting (s.setScript rest).pollStatus := by
  have busy : (s.setScript rest).pending ≠ none := by simp [hp]
  have script := pollStatus_script (s.setScript rest)
  rw [if_neg busy] at script
  obtain ⟨b, h, n, hu, -⟩ := pollStatus_eq (s.setScript rest)
  rw [hu] at script ⊢
  exact ⟨rfl, rfl, rfl, hs ▸ script ▸ List.Subset.refl _⟩

/-- Only a move of the reset pin takes a waiting command away. -/
theorem keepsWaiting_hostMove {s u : State} {p : Pending} (hp : s.pending = some p) (hw : s.wait ≠ 0)
    (noReset : ∀ level, HostOp.resetPin level ∉ s.host.script) (h : hostMove s = .next u) : s.KeepsWaiting u := by
  rcases hostMove_cases h with ⟨-, rfl⟩ | ⟨rest, ⟨off, d, strb, hs, -, hu⟩ | ⟨off, var, hs, -, rfl⟩ | ⟨hs, -, rfl⟩ | ⟨var, v, hs, rfl⟩ |
    ⟨level, hs, -⟩⟩
  · exact ⟨rfl, rfl, rfl, List.Subset.refl _⟩
  · exact keepsWaiting_busWrite hp hw (script_tail_subset hs) hu
  · exact keepsWaiting_readInto (script_tail_subset hs) off var
  · exact keepsWaiting_pollStatus hp hs
  · split
    · exact ⟨rfl, rfl, rfl, script_tail_subset hs⟩
    · exact ⟨rfl, rfl, rfl, List.nil_subset _⟩
  · exact absurd (hs ▸ List.mem_cons_self) (noReset level)

/-! ### The run to the completion -/

/-- A pending command with no reset on the way. -/
structure State.Awaits (s : State) (p : Pending) : Prop where
  pending : s.pending = some p
  rstN : s.rstN = true
  noReset : ∀ level, HostOp.resetPin level ∉ s.host.script

/-- A step in the host's turn leaves the command pending with one move less. -/
theorem step_of_awaits {s : State} {p : Pending} (h : s.Awaits p) (hw : s.wait ≠ 0) :
    ∃ t, step s = .next t ∧ t.Awaits p ∧ t.wait = s.wait - 1 := by
  obtain ⟨u, hu⟩ := hostMove_eq_next (.inr hw) fun _ _ _ _ => h.rstN
  have kept := keepsWaiting_hostMove h.pending hw h.noReset hu
  have busy : s.pending ≠ none := by simp [h.pending]
  refine ⟨u.tick, by rw [step_of_busy_hostTurn (.inr hw) busy, hu, thenNext_next], ?_, congrArg (· - 1) kept.wait⟩
  exact ⟨kept.pending.trans h.pending, kept.rstN.trans h.rstN, fun level new => h.noReset level (kept.script new)⟩

/-- Settles O48, by induction on the host moves left; the invariant lets the last step complete. -/
theorem pendingCommandCompletes : Obligations.PendingCommandCompletes := by
  intro s p inv hp hr noReset
  have awaits : s.Awaits p := ⟨hp, hr, noReset⟩
  clear hp hr noReset
  induction hn : s.wait generalizing s with
  | zero => exact ⟨_, run_succ 0 (step_completes inv awaits.pending hn), rfl, rfl⟩
  | succ n ih =>
    obtain ⟨t, hstep, awaits', wait⟩ := step_of_awaits awaits (by omega)
    rw [run_succ _ hstep]
    exact ih t (stepKeepsTheInvariant s t inv hstep) awaits' (by omega)

end Sys2Proof.Machine

/-! PROOFS. A host that keeps its duties (70_reset_and_hazards R162): what its next line is, and what follows for refusals, the error log and the
registers it reads. -/

namespace Sys2Proof.Machine

open Sys2Proof

/-! ### The duties, by the next line -/

theorem badAccess_of_duties {s : State} {off : BitVec 12} (ha : off.toNat % 4 = 0) (hb : s.busy = true → isSpad off = false) :
    s.badAccess off = false := by
  cases hbusy : s.busy with
  | false => simp [State.badAccess, ha, hbusy]
  | true => simp [State.badAccess, ha, hb hbusy]

/-- A dutiful write is admitted, and none to CMD while BUSY = 1. -/
theorem dutiful_write {s : State} {off : BitVec 12} {d : Word} {strb : BitVec 4} {rest : List HostOp} (hd : s.dutiful = true)
    (hs : s.host.script = .write off d strb :: rest) :
    s.rstN = true ∧ (s.badAccess off || strb != 0b1111) = false ∧ (off = 0x010 → s.pending = none) := by
  simp only [State.dutiful, hs, Bool.and_eq_true, decide_eq_true_eq, beq_iff_eq, Bool.not_eq_true', Bool.and_eq_false_imp,
    Bool.or_eq_false_iff, beq_eq_false_iff_ne] at hd
  obtain ⟨⟨⟨hr, ha⟩, rfl⟩, duty⟩ := hd
  refine ⟨hr, by simp [badAccess_of_duties ha fun hb => (duty hb).1], ?_⟩
  rintro rfl
  rw [← idle_iff, ← Bool.not_eq_true]
  exact fun hb => (duty hb).2 rfl

/-- A dutiful read is aligned, and of no result register and no scratchpad byte while BUSY = 1. -/
theorem dutiful_read {s : State} {off : BitVec 12} {var : Nat} {rest : List HostOp} (hd : s.dutiful = true)
    (hs : s.host.script = .read off var :: rest) :
    s.rstN = true ∧ off.toNat % 4 = 0 ∧ (s.busy = true → isSpad off = false ∧ (regAt off.toNat).isResult = false) := by
  simpa only [State.dutiful, hs, Bool.and_eq_true, decide_eq_true_eq, Bool.not_eq_true', Bool.and_eq_false_imp, Bool.or_eq_false_iff,
    and_assoc] using hd

/-- A dutiful transaction is one while `rst_n` = 1. -/
theorem dutiful_transaction {s : State} {op : HostOp} {rest : List HostOp} (hd : s.dutiful = true) (hs : s.host.script = op :: rest)
    (h : op.isTransaction = true) : s.rstN = true := by
  cases op with
  | write off d strb => exact (dutiful_write hd hs).1
  | read off var => exact (dutiful_read hd hs).1
  | poll => simpa only [State.dutiful, hs] using hd
  | expect | resetPin => cases h

/-! ### No refusal -/

theorem exec_ne_refused (i : Instr) (s : State) (r : Refusal) : exec i s ≠ .refused r := by
  rcases exec_cases i s with ⟨-, he⟩ | ⟨p, -, -, -, he⟩ | ⟨p, -, -, -, he⟩ <;> rw [he] <;> exact nofun

theorem step_ne_refused {s : State} (h : ∀ op rest, s.host.script = op :: rest → op.isTransaction = true → s.rstN = true) (r : Refusal) :
    step s ≠ .refused r := by
  by_cases ht : s.HostTurn
  · obtain ⟨u, hu⟩ := hostMove_eq_next ht h
    by_cases idle : s.pending = none
    · rw [step_of_idle idle, hu]
      exact nofun
    · rw [step_of_busy_hostTurn ht idle, hu]
      exact nofun
  · obtain ⟨busy, hw⟩ := not_or.1 ht
    obtain ⟨p, hp⟩ := Option.ne_none_iff_exists'.1 busy
    rw [step_of_engineTurn hp (not_not.1 hw)]
    exact exec_ne_refused p.instr s r

/-! ### The error log -/

/-- The error log is kept, or grows by one rejected command: no bus error and no drop (R163). -/
def State.LogsOnlyRejection (s u : State) : Prop := u.host.log = s.host.log ∨ ∃ code, u.host.log = s.host.log ++ [.rejected code]

theorem busRead_log {s : State} {off : BitVec 12} (h : s.badAccess off = false) : (s.busRead off).host.log = s.host.log := by
  rw [State.busRead, if_neg (ne_true_of_eq_false h)]
  rfl

theorem pollStatus_log (s : State) : s.pollStatus.host.log = s.host.log := by
  have read : (s.readInto 0x00C 0).host.log = s.host.log := busRead_log (badAccess_of_register s (by decide) (by decide))
  rcases pollStatus_cases s with ⟨-, hp⟩ | ⟨-, hp⟩ <;> rw [hp] <;> exact read

theorem drivePin_log (s : State) (level : Bool) : (s.drivePin level).host.log = s.host.log := by
  rcases drivePin_cases s level with ⟨-, he⟩ | he <;> rw [he]
  rfl

/-- A dutiful write logs nothing but the rejection of an idle CMD write. -/
theorem logsOnlyRejection_write {s u : State} {off : BitVec 12} {d : Word} {strb : BitVec 4} {rest : List HostOp} (hd : s.dutiful = true)
    (hs : s.host.script = .write off d strb :: rest) (h : (s.setScript rest).busWrite off d strb = .next u) : s.LogsOnlyRejection u := by
  obtain ⟨-, admitted, idle⟩ := dutiful_write hd hs
  obtain ⟨resp, -⟩ := busWrite_admitted (s := s.setScript rest) admitted h
  rcases busWrite_next h with rfl | ⟨-, -, -, -, rfl⟩ | ⟨-, hoff, issued⟩ | ⟨-, c, a, st, rfl, -⟩
  · cases resp
  · exact .inl rfl
  · rcases commandWrite_kinds (.inl (idle hoff)) issued with ⟨busy, -⟩ | ⟨-, code, -, -, rfl⟩ | ⟨-, i, -, -, rfl⟩
    · exact absurd (idle hoff) busy
    · exact .inr ⟨code, rfl⟩
    · exact .inl rfl
  · exact .inl rfl

theorem logsOnlyRejection_hostMove {s u : State} (hd : s.dutiful = true) (h : hostMove s = .next u) : s.LogsOnlyRejection u := by
  rcases hostMove_cases h with ⟨-, rfl⟩ | ⟨rest, ⟨off, d, strb, hs, -, hu⟩ | ⟨off, var, hs, -, rfl⟩ | ⟨-, -, rfl⟩ | ⟨var, v, -, rfl⟩ |
    ⟨level, -, rfl⟩⟩
  · exact .inl rfl
  · exact logsOnlyRejection_write hd hs hu
  · obtain ⟨-, ha, duty⟩ := dutiful_read hd hs
    exact .inl (busRead_log (s := s.setScript rest) (badAccess_of_duties ha fun hb => (duty hb).1))
  · exact .inl (pollStatus_log (s.setScript rest))
  · split <;> exact .inl rfl
  · exact .inl (drivePin_log (s.setScript rest) level)

theorem logsOnlyRejection_step {s t : State} (hd : s.dutiful = true) (h : step s = .next t) : s.LogsOnlyRejection t := by
  rcases step_kinds h with ⟨p, -, -, -, rfl⟩ | ⟨-, u, n, hu, rfl⟩
  · exact .inl (congrArg HostState.log (effectOf_host p.instr p.l s))
  · have kept : s.LogsOnlyRejection u := logsOnlyRejection_hostMove hd hu
    exact kept

/-! ### The registers read -/

theorem regAt_ne_status {n : Nat} (h : n ≠ 0x00C) : regAt n ≠ .status := by
  unfold regAt
  split
  case h_4 => exact absurd rfl h
  case h_18 => split <;> exact nofun
  all_goals exact nofun

theorem withoutPending_of_idle {s : State} (h : s.pending = none) : { s with pending := none } = s := by rw [← h]

/-- A register a dutiful host reads, STATUS apart, answers as with no command pending. -/
theorem dutiful_register_resp {s : State} {off : BitVec 12} {var : Nat} {rest : List HostOp} (hd : s.dutiful = true)
    (hs : s.host.script = .read off var :: rest) (h800 : off.toNat < 0x800) (hstatus : off ≠ 0x00C) :
    (s.busRead off).host.resp = (State.busRead { s with pending := none } off).host.resp ∧ (s.busRead off).host.resp.err = false := by
  obtain ⟨-, ha, duty⟩ := dutiful_read hd hs
  refine ⟨?_, by rw [busRead_register s ha h800]; rfl⟩
  cases hb : s.busy with
  | false => rw [withoutPending_of_idle ((idle_iff s).1 hb)]
  | true =>
    have notStatus : regAt off.toNat ≠ .status := regAt_ne_status fun e => hstatus (BitVec.eq_of_toNat_eq e)
    exact (busRead_withResults_resp s none s.sha s.packCount s.cksum ha h800 (duty hb).2 notStatus).symm

/-- Settles O54. -/
theorem dutifulHostMeetsNoBusErrorOrDrop : Obligations.DutifulHostMeetsNoBusErrorOrDrop :=
  fun _ hd =>
    ⟨step_ne_refused fun _ _ hs => dutiful_transaction hd hs, fun _ => logsOnlyRejection_step hd,
      fun _ _ _ hs => dutiful_register_resp hd hs⟩

end Sys2Proof.Machine
